-- ==== Sys2Proof/Word.lean ====
section
/-!
DEFINITION. The word types of the machine: `00_scope.md` rules R6, R7, R12 (bit 0 is the least
significant bit of every register, byte and field).
-/
namespace Sys2Proof

/-- `u8` of `00_scope.md` rule R12: a memory byte, F, IC, T, an 8-bit half-register, an `imm8`. -/
abbrev Byte := BitVec 8

/-- `u16` of `00_scope.md` rule R12: A, C, SP, BP, IP, an address, an `imm16`. -/
abbrev Word := BitVec 16

/-- A 4-bit operand code: `x`, `y` of format OP_XY and `s` of the N formats, `30_encoding.md` rule
R92. Every one of the 16 values is an encoding; which of them an instruction accepts is rule R97. -/
abbrev Code := BitVec 4

end Sys2Proof
end

