-- ==== Sys2Proof/Config.lean ====
section
/-!
DEFINITION. What an implementation or a launch fixes: the size of the address space, the byte that
memory holds where nothing has been placed, and the types of the named parameters of
`92_eei_decisions.md`. There is no free value: `93_implementation_defined.md` section 3 says that
every instruction, operand value, address and state has an outcome.
-/
namespace Sys2Proof

/-- The number of bytes of the memory, `00_scope.md` rule R7. -/
def memorySize : Nat := 65536

/-- What a memory byte that is not listed reads as. DESIGN CHOICE (log entry 1), unsafe for a claim
about a run from reset: the spec leaves the bytes the image did not write open (`00_scope.md` rule
R8, decision D6). A state may list all 65536 bytes, so a claim about every state holds for every
`MEM0`. -/
def unlistedByte : Byte := 0x00

/-- The reset entry point, `70_reset_and_hazards.md` rule R312. -/
def resetEntry : Word := 0x0000

/-- The parameter `INPUT_EXHAUSTED` of decision D18: what IN does when `INPUT` has no more bytes. -/
inductive InputExhausted where
  /-- IN has no enabled step: the spec's default. -/
  | stuck
  /-- IN delivers the byte `b`. -/
  | value (b : Byte)
deriving DecidableEq, Repr

/-- The parameter `CLOCK_RATE` of `00_scope.md` rule R9, in instructions per second, as the fraction
`num / den`. A finite double is such a fraction; `den = 0` stands for what is not finite. -/
structure ClockRate where
  num : Int
  den : Nat
deriving DecidableEq, Repr

end Sys2Proof
end

