-- ==== Sys2Proof/Machine/Rate.lean ====
section
/-!
DEFINITION. The clock governor's two constants, computed at construction: `70_reset_and_hazards.md`
rule R330, in exact arithmetic on the fraction `CLOCK_RATE`.
-/
namespace Sys2Proof

/-- `CLOCK_RATE` is a positive finite number: `00_scope.md` rule R9, `93_implementation_defined.md` U14
and U15. -/
def ClockRate.valid (r : ClockRate) : Bool := 0 < r.num && 0 < r.den

/-- `PERIOD`, in microseconds: `max(20000, 20000 * floor((1000000 / CLOCK_RATE) / 20000))`. The inner
quotient `(1000000 / CLOCK_RATE) / 20000` is `50 / CLOCK_RATE`. -/
def ClockRate.period (r : ClockRate) : Nat := max 20000 (20000 * (50 * r.den / r.num.toNat))

/-- `MULTIPLIER = max(1, floor(CLOCK_RATE / 50))`. -/
def ClockRate.multiplier (r : ClockRate) : Nat := max 1 (r.num.toNat / (50 * r.den))

end Sys2Proof
end

