-- ==== Sys2Proof/Machine/State.lean ====
section
/-!
DEFINITION. The state of the machine, the reasons a step can stop, and the state after reset:
`10_state.md`, whose rule R20 is the complete list of what persists from one step to the next.
-/
namespace Sys2Proof.Machine

/-- One register bank, `10_state.md` rules R20 to R26. -/
structure Bank where
  /-- A, a general-purpose register with two addressable halves, rule R22. -/
  a : Word
  /-- C, a general-purpose register, rule R23. -/
  c : Word
  /-- F: bit 0 is Z, bit 1 is CY, bits 7 to 2 are reserved, rule R26. -/
  f : Byte
  /-- SP, the stack pointer, rule R25. -/
  sp : Word
  /-- BP, the base pointer, rule R25. -/
  bp : Word
deriving DecidableEq, Repr

/-- `interrupt_level`, the nesting depth: 0, 1 or 2, `10_state.md` rule R33. -/
inductive Level where
  | zero | one | two
deriving DecidableEq, Repr

/-- What the output endpoint will still accept, `20_memory.md` rules R77 and R78. `always` is the
default of decision D18; `accepts n` takes `n` more bytes and then never another (log entry 8). -/
inductive Sink where
  | always
  | accepts (n : Nat)
deriving DecidableEq, Repr

/-- The memory as the list of its bytes that are not `unlistedByte`, at strictly rising addresses: the
canonical form is `Memory.wf`, the reads and writes are in Machine/Memory.lean. -/
abbrev Memory := List Host.Cell

/-- The machine: `10_state.md` rule R20, with the environment of the block (`00_scope.md` rule R10, the
wall clock of `70_reset_and_hazards.md` rule R332) and the two named parameters of
`92_eei_decisions.md` held beside it as plain data. -/
structure State where
  /-- The primary bank P, rule R21: what instructions name. -/
  prim : Bank
  /-- The shadow bank S, rule R21; `S.A` is the interrupt return slot, rule R29. -/
  shad : Bank
  /-- `ip`, the next-fetch address, rule R30. -/
  ip : Word
  /-- `ic`, the instruction counter, rule R31. -/
  ic : Byte
  /-- `t`, the vector-table selector, rule R32. -/
  t : Byte
  /-- `interrupt_level`, rule R33. -/
  level : Level
  /-- `interrupt_handling`, rule R34: false masks every raise. -/
  interruptHandling : Bool
  /-- `clock_interrupt`, rule R35. -/
  clockInterrupt : Bool
  /-- `power_on`, rule R36. -/
  powerOn : Bool
  /-- The 65536-byte memory, rule R37. -/
  mem : Memory
  /-- `PERIOD` of the clock governor in microseconds, rule R38: written at construction only. -/
  period : Nat
  /-- `MULTIPLIER` of the clock governor, rule R38: written at construction only. -/
  multiplier : Nat
  /-- The governor's stage counter, rule R38. -/
  stage : Nat
  /-- The governor's deadline `next_tick`, in microseconds of wall-clock time, rule R38. -/
  nextTick : Nat
  /-- Environment: the wall clock's last reading, in microseconds (log entry 6). -/
  now : Nat
  /-- Environment: the wall-clock time that passes before each coming Tick reads the clock; none is
  listed where none passes but by waiting (log entry 6). -/
  gaps : List Nat
  /-- Environment: the unread rest of `INPUT`, `20_memory.md` rule R76. -/
  input : List Byte
  /-- Environment: `OUTPUT`, the bytes consumed so far, oldest first, `20_memory.md` rule R77. -/
  output : List Byte
  /-- Environment: what the output endpoint will still accept (log entry 8). -/
  sink : Sink
  /-- The parameter `INPUT_EXHAUSTED`, decision D18: written at construction only (log entry 7). -/
  inputExhausted : InputExhausted
  /-- The parameter `RTI_AT_LEVEL0_RESTORES_IP`, decision D13: written at construction only (log
  entry 10). -/
  rtiRestoresIp : Bool
deriving DecidableEq, Repr

/-- Why the machine stops. The spec's own faults are no such thing: they are `raise Interrupt(0)`, a
next state. -/
inductive Fault where
  /-- IN waits for a byte that never comes: `INPUT` has ended and `INPUT_EXHAUSTED` is `stuck`. The spec
  calls the state stuck, with no enabled step (`20_memory.md` rule R78, U10, U11). Raised by IN only.
  Safe. -/
  | inputBlocked
  /-- OUT waits for an output endpoint that never accepts the byte: stuck in the same way (`20_memory.md`
  rule R78, U11). Raised by OUT only. Safe. -/
  | outputBlocked
deriving DecidableEq, Repr

/-- Why a step has no meaning. -/
inductive Refusal where
  /-- The instruction has no meaning in the model yet. Raised by an arm of `exec` only; no arm does.
  Safe. -/
  | notModelled (mnemonic : String)
  /-- A step was asked of a machine with `power_on = false`: no such transition, outside the contract
  (`40_step_dispatch.md` rule R121, U12). Raised by `step` only. Safe. -/
  | poweredOff
deriving DecidableEq, Repr

/-- What an instruction or a step answers. -/
abbrev Result := Host.Outcome State Fault Refusal

/-- A bank after construction: "all zero-initialized", `10_state.md` rule R21. -/
def Bank.zero : Bank := { a := 0x0000, c := 0x0000, f := 0x00, sp := 0x0000, bp := 0x0000 }

/-- The clock rate of `State.reset`: 100, the rate of the spec's own scenario. DESIGN CHOICE (log entry
2), unsafe for a timing claim about a run from reset: the spec leaves it to the host. -/
def resetRate : ClockRate := { num := 100, den := 1 }

/-- The machine right after reset, which is construction: the table of `10_state.md` rule R40. What the
host supplies (`MEM0`, `CLOCK_RATE`, `INPUT`, the construction time, the endpoint's and the clock's
behaviour) is at the values of log entries 1 and 2 (DESIGN CHOICE); `State.construct` takes them as
arguments. -/
def State.reset : State where
  prim := Bank.zero
  shad := Bank.zero
  ip := resetEntry
  ic := 0x00
  t := 0x00
  level := .zero
  interruptHandling := false
  clockInterrupt := false
  powerOn := true
  mem := []
  period := resetRate.period
  multiplier := resetRate.multiplier
  stage := 0
  nextTick := 0
  now := 0
  gaps := []
  input := []
  output := []
  sink := .always
  inputExhausted := .stuck
  rtiRestoresIp := false

end Sys2Proof.Machine
end

