-- ==== Sys2Proof/Machine/Flags.lean ====
section
/-!
DEFINITION. The flags: `10_state.md` rules R26 and R27, `40_step_dispatch.md` rules R131 and R132.
-/
namespace Sys2Proof.Machine

/-- `Z`, bit 0 of F, rule R26. -/
def Bank.z (b : Bank) : Bool := b.f.getLsbD 0

/-- `CY`, bit 1 of F, rule R26. -/
def Bank.cy (b : Bank) : Bool := b.f.getLsbD 1

/-- `SetZ(b)`: `P.F <- {P.F[7:1], b}`, rule R131. -/
def State.setZ (s : State) (b : Bool) : State :=
  { s with prim := { s.prim with f := s.prim.f.extractLsb' 1 7 ++ BitVec.ofBool b } }

/-- `SetCY(b)`: `P.F <- {P.F[7:2], b, P.F[0]}`, rule R131. -/
def State.setCY (s : State) (b : Bool) : State :=
  { s with prim := { s.prim with
      f := s.prim.f.extractLsb' 2 6 ++ BitVec.ofBool b ++ s.prim.f.extractLsb' 0 1 } }

/-- What `AddN` and the multiply give: the truncated result and the two flags. -/
structure Narrowed (w : Nat) where
  /-- `sum mod 2^N`. -/
  result : BitVec w
  /-- The unsigned value before truncation exceeds `2^N - 1`. -/
  carry : Bool
  /-- The truncated result is 0. -/
  zero : Bool
deriving DecidableEq, Repr

/-- Narrow an unsigned pre-truncation value to `w` bits, `10_state.md` rule R27. -/
def narrow (w : Nat) (v : Nat) : Narrowed w where
  result := BitVec.ofNat w v
  carry := 2 ^ w - 1 < v
  zero := v % 2 ^ w = 0

/-- `AddN(a, b)`, rule R132, for any width. -/
def addN {w : Nat} (a b : BitVec w) : Narrowed w := narrow w (a.toNat + b.toNat)

/-- The unsigned product of `41_alu.md` rule R164, narrowed to the width of `a`. -/
def mulN {w v : Nat} (a : BitVec w) (b : BitVec v) : Narrowed w := narrow w (a.toNat * b.toNat)

end Sys2Proof.Machine
end

