-- ==== Sys2Proof/Machine/Bits.lean ====
section
/-!
DEFINITION. Bit fields, byte order and sign extension: `00_scope.md` rules R12 and R13.
-/
namespace Sys2Proof

/-- `lo(v) = v[7:0]`, rule R12. -/
def lo (v : Word) : Byte := v.extractLsb' 0 8

/-- `hi(v) = v[15:8]`, rule R12. -/
def hi (v : Word) : Byte := v.extractLsb' 8 8

/-- `{h, l}`: the 16-bit value with high byte `h` and low byte `l`, rule R12. -/
def joinBytes (h l : Byte) : Word := h ++ l

/-- `b[7:4]`. -/
def hiNibble (b : Byte) : Code := b.extractLsb' 4 4

/-- `b[3:0]`. -/
def loNibble (b : Byte) : Code := b.extractLsb' 0 4

/-- `{h, l}` for two 4-bit codes: the operand byte of format OP_XY, `30_encoding.md` rule R93, and
the opcode byte of the N formats, rule R92. -/
def joinNibbles (h l : Code) : Byte := h ++ l

/-- `sext_16(b)` of rule R13: `b` if `b < 128`, else `b + 0xFF00`. -/
def sext16 (b : Byte) : Word := b.signExtend 16

end Sys2Proof
end

