-- ==== Sys2Proof/Machine/Memory.lean ====
section
/-!
DEFINITION. The memory array of `20_memory.md` rule R60, as a list of (address, byte) pairs in one
canonical form.
-/
namespace Sys2Proof.Machine

/-- The canonical form from address `low` on: addresses strictly rise and are below 65536, and no
listed byte is what an unlisted address reads as. -/
def Memory.wfFrom : Nat → Memory → Bool
  | _, [] => true
  | low, (a, v) :: rest => low ≤ a && a < memorySize && v != unlistedByte && Memory.wfFrom (a + 1) rest

/-- The canonical form: equal memories are equal lists. -/
def Memory.wf (m : Memory) : Bool := Memory.wfFrom 0 m

/-- `read(addr)` of rule R60: the most recent write, or what an unlisted address reads as. -/
def Memory.read : Memory → Nat → Byte
  | [], _ => unlistedByte
  | (a', v) :: rest, a => if a' = a then v else Memory.read rest a

/-- The memory with address `a` no longer listed. -/
def Memory.erase : Memory → Nat → Memory
  | [], _ => []
  | (a', v) :: rest, a => if a' = a then Memory.erase rest a else (a', v) :: Memory.erase rest a

/-- The memory with `v` listed at address `a`, in its place. -/
def Memory.put : Memory → Nat → Byte → Memory
  | [], a, v => [(a, v)]
  | (a', v') :: rest, a, v =>
    if a < a' then (a, v) :: (a', v') :: rest
    else if a = a' then (a, v) :: rest
    else (a', v') :: Memory.put rest a v

/-- `write(addr, value)` of rule R60: it replaces the byte at `a` and keeps the canonical form. -/
def Memory.write (m : Memory) (a : Nat) (v : Byte) : Memory :=
  if v = unlistedByte then Memory.erase m a else Memory.put m a v

/-- The bytes of `image` written at ascending addresses from `a`, `70_reset_and_hazards.md` rule R314. -/
def Memory.load (m : Memory) : Nat → List Byte → Memory
  | _, [] => m
  | a, b :: rest => Memory.load (Memory.write m a b) (a + 1) rest

end Sys2Proof.Machine
end

