-- ==== Sys2Proof/Machine/Ops.lean ====
section
/-!
DEFINITION. The operations every meaning is built from: memory accesses, control transfer, the
interrupt controller's raise procedure and its return, and the two byte ports.
-/
namespace Sys2Proof.Machine

/-! ## Memory: `20_memory.md` rules R62 to R64 -/

/-- `MemRead(addr, 1)`, rule R62. -/
def State.readByte (s : State) (a : Word) : Byte := Memory.read s.mem a.toNat

/-- `MemRead(addr, 2)`, rule R63: little-endian, the high byte at `addr + 1` modulo 65536. -/
def State.readWord (s : State) (a : Word) : Word := joinBytes (s.readByte (a + 1#16)) (s.readByte a)

/-- `MemWrite(addr, 1, v)`, rule R62. -/
def State.writeByte (s : State) (a : Word) (v : Byte) : State :=
  { s with mem := Memory.write s.mem a.toNat v }

/-- `MemWrite(addr, 2, v)`, rule R64: the low byte at `addr`, then the high byte at `addr + 1` modulo
65536. -/
def State.writeWord (s : State) (a : Word) (v : Word) : State :=
  (s.writeByte a (lo v)).writeByte (a + 1#16) (hi v)

/-! ## Control transfer -/

/-- `ip <- target`, `43_control_transfer.md` rule R210: every 16-bit value is a target. -/
def State.jump (s : State) (target : Word) : State := { s with ip := target }

/-! ## The interrupt controller: `60_exceptions.md` -/

/-- The vector address `(16 * code + 2048 * t) mod 65536`, rule R274. -/
def vectorAddress (code t : Byte) : Word := BitVec.ofNat 16 (16 * code.toNat + 2048 * t.toNat)

/-- Double-fault redirection, rule R273: at level 1 a code that is not 0, 2 or 3 becomes 3. -/
def redirect (code : Byte) : Byte :=
  if code = 0x00 ∨ code = 0x02 ∨ code = 0x03 then code else 0x03

/-- Interrupt entry, rules R272 and R276: it saves `ip` in `S.A`, sends `ip` to the vector of the
effective code and sets the level; nothing else changes. -/
def State.enterHandler (s : State) (eff : Byte) (lvl : Level) : State :=
  { s with shad := { s.shad with a := s.ip }, ip := vectorAddress eff s.t, level := lvl }

/-- `raise Interrupt(code)`, the raise procedure of rule R272: masked, it does nothing; at level 2 it
is the triple fault (rule R285), which only turns the power off; else it enters the handler. -/
def State.raiseInterrupt (s : State) (code : Byte) : State :=
  if s.interruptHandling then
    match s.level with
    | .zero => s.enterHandler code .one
    | .one => s.enterHandler (redirect code) .two
    | .two => { s with powerOn := false }
  else s

/-- `BadOpCode()`, rule R278. -/
def State.badOpCode (s : State) : State := s.raiseInterrupt 0x00

/-- `BadParameter()`, rule R278. -/
def State.badParameter (s : State) : State := s.raiseInterrupt 0x00

/-- Return from interrupt, `43_control_transfer.md` rule R220: above level 0 the level goes down by one
and `ip` comes from `S.A`; at level 0 it is a `BadParameter()` fault, after which `ip` comes from `S.A`
only under the parameter `RTI_AT_LEVEL0_RESTORES_IP` (decision D13, log entry 10). -/
def State.returnFromInterrupt (s : State) : State :=
  match s.level with
  | .two => { s with level := .one, ip := s.shad.a }
  | .one => { s with level := .zero, ip := s.shad.a }
  | .zero => if s.rtiRestoresIp then s.badParameter.jump s.badParameter.shad.a else s.badParameter

/-! ## The byte ports: `20_memory.md` rules R75 to R79 -/

/-- `In()`, rule R76: the next byte of `INPUT` and the state with the input position advanced; when
`INPUT` has ended, what `INPUT_EXHAUSTED` says (decision D18), and `none` where that is `stuck`. -/
def State.portIn (s : State) : Option (Byte × State) :=
  match s.input with
  | b :: rest => some (b, { s with input := rest })
  | [] =>
    match s.inputExhausted with
    | .stuck => none
    | .value b => some (b, s)

/-- `Out(v)`, rule R77: `v` is appended to `OUTPUT`; `none` where the endpoint never accepts it
(rule R78, U11). -/
def State.portOut (s : State) (v : Byte) : Option State :=
  match s.sink with
  | .always => some { s with output := s.output ++ [v] }
  | .accepts 0 => none
  | .accepts (n + 1) => some { s with output := s.output ++ [v], sink := .accepts n }

end Sys2Proof.Machine
end

