-- ==== Sys2Proof/Machine/Operands.lean ====
section
/-!
DEFINITION. The operand forms: the selector classes of `40_step_dispatch.md` rules R127 to R130 and the
effective addresses of `42_moves_loads_stores.md` rules R188 and R189. All of them act on the primary
bank (rule R130).
-/
namespace Sys2Proof.Machine

/-- The 8-bit half-registers an instruction can name. C-high is none of them (`10_state.md` rule R24). -/
inductive Half where
  | aLow | aHigh | cLow
deriving DecidableEq, Repr

/-- The 16-bit registers an instruction can name, rule R128. -/
inductive Reg where
  | a | c | sp | bp
deriving DecidableEq, Repr

/-- The g8 class, rule R127: code 3 is A-high, the same half as code 1. -/
def g8 (k : Code) : Option Half :=
  match k.toNat with
  | 0 => some .aLow
  | 1 => some .aHigh
  | 2 => some .cLow
  | 3 => some .aHigh
  | _ => none

/-- The r16 class, rule R128. -/
def r16 (k : Code) : Option Reg :=
  match k.toNat with
  | 0 => some .a
  | 1 => some .c
  | 2 => some .sp
  | 3 => some .bp
  | _ => none

/-- The g16 class, rule R129. -/
def g16 (k : Code) : Option Reg :=
  match k.toNat with
  | 0 => some .a
  | 1 => some .c
  | _ => none

/-- Read a half-register, rule R127. -/
def Bank.half (b : Bank) : Half → Byte
  | .aLow => lo b.a
  | .aHigh => hi b.a
  | .cLow => lo b.c

/-- Write a half-register, rule R127: the other half of the register is kept. -/
def Bank.setHalf (b : Bank) (h : Half) (v : Byte) : Bank :=
  match h with
  | .aLow => { b with a := joinBytes (hi b.a) v }
  | .aHigh => { b with a := joinBytes v (lo b.a) }
  | .cLow => { b with c := joinBytes (hi b.c) v }

/-- Read a 16-bit register, rule R128. -/
def Bank.reg (b : Bank) : Reg → Word
  | .a => b.a
  | .c => b.c
  | .sp => b.sp
  | .bp => b.bp

/-- Write a 16-bit register, rule R128. -/
def Bank.setReg (b : Bank) (r : Reg) (v : Word) : Bank :=
  match r with
  | .a => { b with a := v }
  | .c => { b with c := v }
  | .sp => { b with sp := v }
  | .bp => { b with bp := v }

/-- Read a half-register of the primary bank, rule R130. -/
def State.half (s : State) (h : Half) : Byte := s.prim.half h

/-- Write a half-register of the primary bank, rule R130. -/
def State.setHalf (s : State) (h : Half) (v : Byte) : State := { s with prim := s.prim.setHalf h v }

/-- Read a 16-bit register of the primary bank, rule R130. -/
def State.reg (s : State) (r : Reg) : Word := s.prim.reg r

/-- Write a 16-bit register of the primary bank, rule R130. -/
def State.setReg (s : State) (r : Reg) (v : Word) : State := { s with prim := s.prim.setReg r v }

/-- `EA_BP(d) = (P.BP + sext_16(d)) mod 65536`, `42_moves_loads_stores.md` rule R188. -/
def State.eaBp (s : State) (d : Byte) : Word := s.prim.bp + sext16 d

/-- `EA_C = P.C`, `42_moves_loads_stores.md` rule R189. -/
def State.eaC (s : State) : Word := s.prim.c

end Sys2Proof.Machine
end

