-- ==== Sys2Proof/Machine/Alu.lean ====
section
/-!
DEFINITION. Arithmetic and logic, opcodes 0x00 to 0x0D: `41_alu.md`. A code outside its class, an amount
or a mode out of range is `BadParameter()` and nothing else (`40_step_dispatch.md` rule R134).
-/
namespace Sys2Proof.Machine

/-! ## Shared operations -/

/-- `g8[d] <- g8[d] + v` with CY and Z, rules R152 and R257. -/
def State.addToHalf (s : State) (d : Half) (v : Byte) : State :=
  let o := addN (s.half d) v
  ((s.setHalf d o.result).setCY o.carry).setZ o.zero

/-- `r16[d] <- r16[d] + v` with CY and Z, rules R153 and R258. -/
def State.addToReg (s : State) (d : Reg) (v : Word) : State :=
  let o := addN (s.reg d) v
  ((s.setReg d o.result).setCY o.carry).setZ o.zero

/-- `g8[d] <- g8[d] - v` with Z, rule R154. -/
def State.subFromHalf (s : State) (d : Half) (v : Byte) : State :=
  let r := s.half d - v
  (s.setHalf d r).setZ (r == 0)

/-- `r16[d] <- r16[d] - v` with Z, rule R155. -/
def State.subFromReg (s : State) (d : Reg) (v : Word) : State :=
  let r := s.reg d - v
  (s.setReg d r).setZ (r == 0)

/-- Rotate a byte left by `n`, for `n` up to 7: the formula of rule R162. -/
def rotateLeft8 (v : Byte) (n : Nat) : Byte :=
  BitVec.ofNat 8 ((v.toNat * 2 ^ n) % 256 + v.toNat / 2 ^ (8 - n))

/-- Shift a byte by the 4-bit code `n`: left by `n` up to 7, else right by `16 - n`, rule R163. -/
def shift8 (v : Byte) (n : Nat) : Byte :=
  if n ≤ 7 then BitVec.ofNat 8 ((v.toNat * 2 ^ n) % 256) else BitVec.ofNat 8 (v.toNat / 2 ^ (16 - n))

/-- A byte operation on two g8 operands that writes no flag: rules R159 to R161. -/
def State.logic8 (s : State) (f : Byte → Byte → Byte) (x y : Code) : State :=
  match g8 x, g8 y with
  | some d, some r => s.setHalf d (f (s.half d) (s.half r))
  | _, _ => s.badParameter

/-! ## Meanings -/

/-- NOP, rule R151. -/
def execNop (s : State) : Result := .next s

/-- ADD8 x, y, rule R152. -/
def execAdd8 (x y : Code) (s : State) : Result :=
  match g8 x, g8 y with
  | some d, some r => .next (s.addToHalf d (s.half r))
  | _, _ => .next s.badParameter

/-- ADD16 x, y, rule R153. -/
def execAdd16 (x y : Code) (s : State) : Result :=
  match r16 x, r16 y with
  | some d, some r => .next (s.addToReg d (s.reg r))
  | _, _ => .next s.badParameter

/-- SUB8 x, y, rule R154: CY is kept. -/
def execSub8 (x y : Code) (s : State) : Result :=
  match g8 x, g8 y with
  | some d, some r => .next (s.subFromHalf d (s.half r))
  | _, _ => .next s.badParameter

/-- SUB16 x, y, rule R155: CY is kept. -/
def execSub16 (x y : Code) (s : State) : Result :=
  match r16 x, r16 y with
  | some d, some r => .next (s.subFromReg d (s.reg r))
  | _, _ => .next s.badParameter

/-- INCC, rule R156: no flag. -/
def execIncc (s : State) : Result := .next (s.setReg .c (s.reg .c + 1#16))

/-- DECC, rule R157: no flag. -/
def execDecc (s : State) : Result := .next (s.setReg .c (s.reg .c - 1#16))

/-- NEG x, y, rule R158: `y` is the mode, 0 for g8 and 1 for g16; no flag. -/
def execNeg (x y : Code) (s : State) : Result :=
  match y.toNat with
  | 0 =>
    match g8 x with
    | some d => .next (s.setHalf d (-(s.half d)))
    | none => .next s.badParameter
  | 1 =>
    match g16 x with
    | some d => .next (s.setReg d (-(s.reg d)))
    | none => .next s.badParameter
  | _ => .next s.badParameter

/-- AND8 x, y, rule R159: no flag. -/
def execAnd8 (x y : Code) (s : State) : Result := .next (s.logic8 (· &&& ·) x y)

/-- OR8 x, y, rule R160: no flag. -/
def execOr8 (x y : Code) (s : State) : Result := .next (s.logic8 (· ||| ·) x y)

/-- XOR8 x, y, rule R161: no flag. -/
def execXor8 (x y : Code) (s : State) : Result := .next (s.logic8 (· ^^^ ·) x y)

/-- ROL8 x, y, rule R162: an amount above 7 faults; no flag. -/
def execRol8 (x y : Code) (s : State) : Result :=
  match g8 x with
  | some d =>
    if y.toNat ≤ 7 then .next (s.setHalf d (rotateLeft8 (s.half d) y.toNat)) else .next s.badParameter
  | none => .next s.badParameter

/-- SHF8 x, y, rule R163: no amount faults; no flag. -/
def execShf8 (x y : Code) (s : State) : Result :=
  match g8 x with
  | some d => .next (s.setHalf d (shift8 (s.half d) y.toNat))
  | none => .next s.badParameter

/-- MUL8 x, y, rule R164: `y` a g8 code, `g8[x] <- g8[x] * g8[y]`; `y = 4`, `A <- A * g8[x]`. CY is
assigned, Z is kept. -/
def execMul8 (x y : Code) (s : State) : Result :=
  match g8 x with
  | none => .next s.badParameter
  | some d =>
    match g8 y with
    | some r =>
      let o := mulN (s.half d) (s.half r)
      .next ((s.setHalf d o.result).setCY o.carry)
    | none =>
      if y.toNat = 4 then
        let o := mulN (s.reg .a) (s.half d)
        .next ((s.setReg .a o.result).setCY o.carry)
      else .next s.badParameter

end Sys2Proof.Machine
end

