-- ==== Sys2Proof/Machine/Control.lean ====
section
/-!
DEFINITION. Control transfer, opcodes 0x40 to 0x4C: `43_control_transfer.md`. `ip` already stands after
the instruction's last byte, so a jump not taken changes nothing (rule R210). No flag is written.
-/
namespace Sys2Proof.Machine

/-- JMP imm16, rule R211. -/
def execJmp (target : Word) (s : State) : Result := .next (s.jump target)

/-- JZ imm16, rule R212. -/
def execJz (target : Word) (s : State) : Result := .next (if s.prim.z then s.jump target else s)

/-- JC imm16, rule R213. -/
def execJc (target : Word) (s : State) : Result := .next (if s.prim.cy then s.jump target else s)

/-- JNZ imm16, rule R214. -/
def execJnz (target : Word) (s : State) : Result := .next (if s.prim.z then s else s.jump target)

/-- JNC imm16, rule R215. -/
def execJnc (target : Word) (s : State) : Result := .next (if s.prim.cy then s else s.jump target)

/-- CALL imm16, rule R216: nothing is pushed. -/
def execCall (target : Word) (s : State) : Result := .next (s.jump target)

/-- CALLA, rule R217: nothing is pushed. -/
def execCalla (s : State) : Result := .next (s.jump (s.reg .a))

/-- INT imm8, rule R218. -/
def execInt (code : Byte) (s : State) : Result := .next (s.raiseInterrupt code)

/-- RET, rule R219. -/
def execRet (s : State) : Result :=
  .next ((s.jump (s.readWord (s.reg .sp))).setReg .sp (s.reg .sp + 2#16))

/-- RTI, rule R220. -/
def execRti (s : State) : Result := .next s.returnFromInterrupt

end Sys2Proof.Machine
end

