-- ==== Sys2Proof/Machine/Moves.lean ====
section
/-!
DEFINITION. Moves, loads, stores and the bank swap, opcodes 0x20 to 0x2E: `42_moves_loads_stores.md`. No
instruction of the family writes a flag; SWP exchanges the two F registers with the banks (rule R180).
-/
namespace Sys2Proof.Machine

/-- MOV8 x, y, rule R181. -/
def execMov8 (x y : Code) (s : State) : Result :=
  match g8 x, g8 y with
  | some d, some r => .next (s.setHalf d (s.half r))
  | _, _ => .next s.badParameter

/-- MOV16 x, y, rule R182. -/
def execMov16 (x y : Code) (s : State) : Result :=
  match r16 x, r16 y with
  | some d, some r => .next (s.setReg d (s.reg r))
  | _, _ => .next s.badParameter

/-- MOVX tag, rule R183: 1 reads F and 2 reads `ic` into A-low, 3 reads `ip` into A; any other tag
faults. -/
def execMovx (tag : Byte) (s : State) : Result :=
  match tag.toNat with
  | 1 => .next (s.setHalf .aLow s.prim.f)
  | 2 => .next (s.setHalf .aLow s.ic)
  | 3 => .next (s.setReg .a s.ip)
  | _ => .next s.badParameter

/-- LDB_BP d, rule R184. -/
def execLdbBp (d : Byte) (s : State) : Result := .next (s.setHalf .aLow (s.readByte (s.eaBp d)))

/-- LDB_C, rule R185. -/
def execLdbC (s : State) : Result := .next (s.setHalf .aLow (s.readByte s.eaC))

/-- STB_BP d, rule R186. -/
def execStbBp (d : Byte) (s : State) : Result := .next (s.writeByte (s.eaBp d) (s.half .aLow))

/-- STB_C, rule R187. -/
def execStbC (s : State) : Result := .next (s.writeByte s.eaC (s.half .aLow))

/-- SWP, rules R28 and R190: the two banks exchange their contents. -/
def execSwp (s : State) : Result := .next { s with prim := s.shad, shad := s.prim }

/-- LDW_BP d, rule R191. -/
def execLdwBp (d : Byte) (s : State) : Result := .next (s.setReg .a (s.readWord (s.eaBp d)))

/-- LDW_C, rule R192. -/
def execLdwC (s : State) : Result := .next (s.setReg .a (s.readWord s.eaC))

/-- RDT, rule R193. -/
def execRdt (s : State) : Result := .next (s.setHalf .aLow s.t)

/-- WRT, rule R194. -/
def execWrt (s : State) : Result := .next { s with t := s.half .aLow }

/-- STW_BP d, rule R195. -/
def execStwBp (d : Byte) (s : State) : Result := .next (s.writeWord (s.eaBp d) (s.reg .a))

/-- STW_C, rule R196. -/
def execStwC (s : State) : Result := .next (s.writeWord s.eaC (s.reg .a))

end Sys2Proof.Machine
end

