-- ==== Sys2Proof/Machine/Nibble.lean ====
section
/-!
DEFINITION. Nibble operations, opcode bytes 0x80 to 0xFF: `45_nibble_ops.md`. A selector above 3 is
`BadParameter()` and nothing else (rule R250).
-/
namespace Sys2Proof.Machine

/-! ## Shared operations -/

/-- Push a byte: SP goes down by 1, then the byte is stored at SP, rule R253. -/
def State.pushByte (s : State) (v : Byte) : State :=
  (s.setReg .sp (s.reg .sp - 1#16)).writeByte (s.reg .sp - 1#16) v

/-- Push a word: SP goes down by 2, then the low byte is stored at SP and the high byte at SP + 1, rule
R254. -/
def State.pushWord (s : State) (v : Word) : State :=
  (s.setReg .sp (s.reg .sp - 2#16)).writeWord (s.reg .sp - 2#16) v

/-! ## Meanings -/

/-- MVI8 s, imm8, rule R251. -/
def execMvi8 (sel : Code) (imm : Byte) (s : State) : Result :=
  match g8 sel with
  | some d => .next (s.setHalf d imm)
  | none => .next s.badParameter

/-- MVI16 s, imm16, rule R252. -/
def execMvi16 (sel : Code) (imm : Word) (s : State) : Result :=
  match r16 sel with
  | some d => .next (s.setReg d imm)
  | none => .next s.badParameter

/-- PUSH8 s, rule R253. -/
def execPush8 (sel : Code) (s : State) : Result :=
  match g8 sel with
  | some r => .next (s.pushByte (s.half r))
  | none => .next s.badParameter

/-- PUSH16 s, rule R254: the register is read before SP changes (decision D9). -/
def execPush16 (sel : Code) (s : State) : Result :=
  match r16 sel with
  | some r => .next (s.pushWord (s.reg r))
  | none => .next s.badParameter

/-- POP8 s, rule R255. -/
def execPop8 (sel : Code) (s : State) : Result :=
  match g8 sel with
  | some d => .next ((s.setReg .sp (s.reg .sp + 1#16)).setHalf d (s.readByte (s.reg .sp)))
  | none => .next s.badParameter

/-- POP16 s, rule R256: the destination is written last, after SP (decision D9). -/
def execPop16 (sel : Code) (s : State) : Result :=
  match r16 sel with
  | some d => .next ((s.setReg .sp (s.reg .sp + 2#16)).setReg d (s.readWord (s.reg .sp)))
  | none => .next s.badParameter

/-- ADI8 s, imm8, rule R257. -/
def execAdi8 (sel : Code) (imm : Byte) (s : State) : Result :=
  match g8 sel with
  | some d => .next (s.addToHalf d imm)
  | none => .next s.badParameter

/-- ADI16 s, imm16, rule R258. -/
def execAdi16 (sel : Code) (imm : Word) (s : State) : Result :=
  match r16 sel with
  | some d => .next (s.addToReg d imm)
  | none => .next s.badParameter

end Sys2Proof.Machine
end

