-- ==== Sys2Proof/Machine/System.lean ====
section
/-!
DEFINITION. System and I/O, opcodes 0x50 to 0x70: `44_system_io.md`; and the illegal opcode bytes,
`40_step_dispatch.md` rule R133. There is no privilege: each runs in every state (`60_exceptions.md`
rule R288).
-/
namespace Sys2Proof.Machine

/-- EI, rule R230. -/
def execEi (s : State) : Result := .next { s with interruptHandling := true }

/-- DI, rule R231. -/
def execDi (s : State) : Result := .next { s with interruptHandling := false }

/-- ECI, rule R232. -/
def execEci (s : State) : Result := .next { s with clockInterrupt := true }

/-- DCI, rule R233. -/
def execDci (s : State) : Result := .next { s with clockInterrupt := false }

/-- RSV54, rule R234: "reserved, currently no-op". -/
def execRsv54 (s : State) : Result := .next s

/-- RSV55, rule R235: "reserved, currently no-op". -/
def execRsv55 (s : State) : Result := .next s

/-- IN, rule R236: blocked without end where no byte comes (`20_memory.md` rule R78, U10). -/
def execInp (s : State) : Result :=
  match s.portIn with
  | some (b, s') => .next (s'.setHalf .aLow b)
  | none => .fault .inputBlocked

/-- OUT, rule R237: blocked without end where the byte is never accepted (`20_memory.md` rule R78,
U11). -/
def execOut (s : State) : Result :=
  match s.portOut (s.half .aLow) with
  | some s' => .next s'
  | none => .fault .outputBlocked

/-- HLT, rule R238. -/
def execHlt (s : State) : Result := .next { s with powerOn := false }

/-- An illegal opcode byte, `40_step_dispatch.md` rule R133: `BadOpCode()`, whichever byte it is. -/
def execIllegal (_op : Byte) (s : State) : Result := .next s.badOpCode

end Sys2Proof.Machine
end

