-- ==== Sys2Proof/Syntax.lean ====
section
/-!
DEFINITION. The instructions: one constructor for each of the 55 instruction rows of
spec/opcode_table.json (`30_encoding.md` rule R96), and `illegal`, the one constructor of its 18 rows
ILLEGAL, which holds the opcode byte itself (rule R98, log entry 17).

Operands are the fields of `30_encoding.md` rule R92 as they stand in the bytes. A 4-bit code that an
instruction does not accept is still that instruction with that code: it decodes, and executing it
raises `Interrupt(0)` (rules R95, R97, R99).
-/
namespace Sys2Proof

inductive Instr where
  -- 0x00 to 0x0D, arithmetic and logic: `41_alu.md`
  | nop
  | add8 (x y : Code)
  | add16 (x y : Code)
  | sub8 (x y : Code)
  | sub16 (x y : Code)
  | incc
  | decc
  | neg (x y : Code)
  | and8 (x y : Code)
  | or8 (x y : Code)
  | xor8 (x y : Code)
  | rol8 (x y : Code)
  | shf8 (x y : Code)
  | mul8 (x y : Code)
  -- 0x20 to 0x2E, moves, loads, stores and the bank swap: `42_moves_loads_stores.md`
  | mov8 (x y : Code)
  | mov16 (x y : Code)
  | movx (tag : Byte)
  | ldbBp (d : Byte)
  | ldbC
  | stbBp (d : Byte)
  | stbC
  | swp
  | ldwBp (d : Byte)
  | ldwC
  | rdt
  | wrt
  | stwBp (d : Byte)
  | stwC
  -- 0x40 to 0x4C, control transfer: `43_control_transfer.md`
  | jmp (target : Word)
  | jz (target : Word)
  | jc (target : Word)
  | jnz (target : Word)
  | jnc (target : Word)
  | call (target : Word)
  | calla
  | int (code : Byte)
  | ret
  | rti
  -- 0x50 to 0x70, system and I/O: `44_system_io.md`
  | ei
  | di
  | eci
  | dci
  | rsv54
  | rsv55
  | inp
  | out
  | hlt
  -- 0x80 to 0xFF, nibble operations: `45_nibble_ops.md`
  | mvi8 (sel : Code) (imm : Byte)
  | mvi16 (sel : Code) (imm : Word)
  | push8 (sel : Code)
  | push16 (sel : Code)
  | pop8 (sel : Code)
  | pop16 (sel : Code)
  | adi8 (sel : Code) (imm : Byte)
  | adi16 (sel : Code) (imm : Word)
  -- the 81 illegal opcode bytes: `30_encoding.md` rule R98
  | illegal (op : Byte)
deriving DecidableEq, Repr

end Sys2Proof
end

