-- ==== Sys2Proof/Machine/Dispatch.lean ====
section
/-!
DEFINITION. The dispatch of `40_step_dispatch.md` rule R125: one arm per instruction, one meaning each.
-/
namespace Sys2Proof.Machine

/-- The execute phase of an instruction: its trailing bytes are fetched and `ip` stands after its last
byte (`10_state.md` rule R30). -/
def exec (i : Instr) (s : State) : Host.Outcome State Fault Refusal :=
  match i with
  | .nop => Sys2Proof.Machine.execNop s
  | .add8 x y => Sys2Proof.Machine.execAdd8 x y s
  | .add16 x y => Sys2Proof.Machine.execAdd16 x y s
  | .sub8 x y => Sys2Proof.Machine.execSub8 x y s
  | .sub16 x y => Sys2Proof.Machine.execSub16 x y s
  | .incc => Sys2Proof.Machine.execIncc s
  | .decc => Sys2Proof.Machine.execDecc s
  | .neg x y => Sys2Proof.Machine.execNeg x y s
  | .and8 x y => Sys2Proof.Machine.execAnd8 x y s
  | .or8 x y => Sys2Proof.Machine.execOr8 x y s
  | .xor8 x y => Sys2Proof.Machine.execXor8 x y s
  | .rol8 x y => Sys2Proof.Machine.execRol8 x y s
  | .shf8 x y => Sys2Proof.Machine.execShf8 x y s
  | .mul8 x y => Sys2Proof.Machine.execMul8 x y s
  | .mov8 x y => Sys2Proof.Machine.execMov8 x y s
  | .mov16 x y => Sys2Proof.Machine.execMov16 x y s
  | .movx tag => Sys2Proof.Machine.execMovx tag s
  | .ldbBp d => Sys2Proof.Machine.execLdbBp d s
  | .ldbC => Sys2Proof.Machine.execLdbC s
  | .stbBp d => Sys2Proof.Machine.execStbBp d s
  | .stbC => Sys2Proof.Machine.execStbC s
  | .swp => Sys2Proof.Machine.execSwp s
  | .ldwBp d => Sys2Proof.Machine.execLdwBp d s
  | .ldwC => Sys2Proof.Machine.execLdwC s
  | .rdt => Sys2Proof.Machine.execRdt s
  | .wrt => Sys2Proof.Machine.execWrt s
  | .stwBp d => Sys2Proof.Machine.execStwBp d s
  | .stwC => Sys2Proof.Machine.execStwC s
  | .jmp target => Sys2Proof.Machine.execJmp target s
  | .jz target => Sys2Proof.Machine.execJz target s
  | .jc target => Sys2Proof.Machine.execJc target s
  | .jnz target => Sys2Proof.Machine.execJnz target s
  | .jnc target => Sys2Proof.Machine.execJnc target s
  | .call target => Sys2Proof.Machine.execCall target s
  | .calla => Sys2Proof.Machine.execCalla s
  | .int code => Sys2Proof.Machine.execInt code s
  | .ret => Sys2Proof.Machine.execRet s
  | .rti => Sys2Proof.Machine.execRti s
  | .ei => Sys2Proof.Machine.execEi s
  | .di => Sys2Proof.Machine.execDi s
  | .eci => Sys2Proof.Machine.execEci s
  | .dci => Sys2Proof.Machine.execDci s
  | .rsv54 => Sys2Proof.Machine.execRsv54 s
  | .rsv55 => Sys2Proof.Machine.execRsv55 s
  | .inp => Sys2Proof.Machine.execInp s
  | .out => Sys2Proof.Machine.execOut s
  | .hlt => Sys2Proof.Machine.execHlt s
  | .mvi8 sel imm => Sys2Proof.Machine.execMvi8 sel imm s
  | .mvi16 sel imm => Sys2Proof.Machine.execMvi16 sel imm s
  | .push8 sel => Sys2Proof.Machine.execPush8 sel s
  | .push16 sel => Sys2Proof.Machine.execPush16 sel s
  | .pop8 sel => Sys2Proof.Machine.execPop8 sel s
  | .pop16 sel => Sys2Proof.Machine.execPop16 sel s
  | .adi8 sel imm => Sys2Proof.Machine.execAdi8 sel imm s
  | .adi16 sel imm => Sys2Proof.Machine.execAdi16 sel imm s
  | .illegal op => Sys2Proof.Machine.execIllegal op s

end Sys2Proof.Machine
end

