-- ==== Sys2Proof/WellFormed.lean ====
section
/-!
DEFINITION. Which terms of `Instr` stand for an encoding, and which operands an instruction accepts.
-/
namespace Sys2Proof

/-- The 81 illegal opcode bytes, the full list of `30_encoding.md` rule R98. -/
def isIllegalOpcode (op : Byte) : Bool :=
  let n := op.toNat
  (0x0E ≤ n && n ≤ 0x1F) || n == 0x27 || (0x2F ≤ n && n ≤ 0x3F) || (0x45 ≤ n && n ≤ 0x47) ||
    (0x4D ≤ n && n ≤ 0x4F) || (0x56 ≤ n && n ≤ 0x5F) || (0x62 ≤ n && n ≤ 0x6F) ||
    (0x71 ≤ n && n ≤ 0x7F)

/-- The term stands for an encoding: every operand value of every instruction row is one
(`30_encoding.md` rule R92), and `illegal` stands for the bytes of rule R98 only. -/
def Instr.wf : Instr → Bool
  | .illegal op => isIllegalOpcode op
  | .nop | .incc | .decc | .ldbC | .stbC | .swp | .ldwC | .rdt | .wrt | .stwC | .calla | .ret | .rti
  | .ei | .di | .eci | .dci | .rsv54 | .rsv55 | .inp | .out | .hlt => true
  | .add8 _ _ | .add16 _ _ | .sub8 _ _ | .sub16 _ _ | .neg _ _ | .and8 _ _ | .or8 _ _ | .xor8 _ _
  | .rol8 _ _ | .shf8 _ _ | .mul8 _ _ | .mov8 _ _ | .mov16 _ _ => true
  | .movx _ | .ldbBp _ | .stbBp _ | .ldwBp _ | .stwBp _ | .int _ => true
  | .jmp _ | .jz _ | .jc _ | .jnz _ | .jnc _ | .call _ => true
  | .mvi8 _ _ | .mvi16 _ _ | .push8 _ | .push16 _ | .pop8 _ | .pop16 _ | .adi8 _ _ | .adi16 _ _ => true

/-- A g8 or an r16 code: 0 to 3, `30_encoding.md` rule R97. -/
def isClassCode (k : Code) : Bool := k.toNat ≤ 3

/-- The operand codes are ones the instruction accepts: the table of `30_encoding.md` rule R97, with
the tag of MOVX (rule R99). An instruction whose operands are not legal is a `BadParameter()` fault.
(RTI at level 0, the one `BadParameter()` cause that is not an encoding, is no matter of operands.) -/
def Instr.operandsLegal : Instr → Bool
  | .add8 x y | .sub8 x y | .and8 x y | .or8 x y | .xor8 x y | .mov8 x y => isClassCode x && isClassCode y
  | .add16 x y | .sub16 x y | .mov16 x y => isClassCode x && isClassCode y
  | .neg x y => (y.toNat == 0 && x.toNat ≤ 3) || (y.toNat == 1 && x.toNat ≤ 1)
  | .rol8 x y => isClassCode x && y.toNat ≤ 7
  | .shf8 x _ => isClassCode x
  | .mul8 x y => isClassCode x && y.toNat ≤ 4
  | .movx tag => 1 ≤ tag.toNat && tag.toNat ≤ 3
  | .mvi8 sel _ | .push8 sel | .pop8 sel | .adi8 sel _ => isClassCode sel
  | .mvi16 sel _ | .push16 sel | .pop16 sel | .adi16 sel _ => isClassCode sel
  | .nop | .incc | .decc | .ldbC | .stbC | .swp | .ldwC | .rdt | .wrt | .stwC | .calla | .ret | .rti
  | .ei | .di | .eci | .dci | .rsv54 | .rsv55 | .inp | .out | .hlt => true
  | .ldbBp _ | .stbBp _ | .ldwBp _ | .stwBp _ | .int _ => true
  | .jmp _ | .jz _ | .jc _ | .jnz _ | .jnc _ | .call _ => true
  | .illegal _ => true

end Sys2Proof
end

