-- ==== Sys2Proof/Decode.lean ====
section
/-!
DEFINITION. The decoder and the encoder: `30_encoding.md`. The decoder is total on any bytes (rule
R103); it rejects, by name, only a byte list that ends before the instruction does, which cannot
happen in the machine's memory.
-/
namespace Sys2Proof

/-- The seven formats, `30_encoding.md` rule R92. -/
inductive Format where
  | op | opXY | opI8 | opI16 | n | nI8 | nI16
deriving DecidableEq, Repr

/-- The length in bytes of each format, rule R92. -/
def Format.length : Format → Nat
  | .op => 1
  | .opXY => 2
  | .opI8 => 2
  | .opI16 => 3
  | .n => 1
  | .nI8 => 2
  | .nI16 => 3

/-- The format of an instruction, from its opcode byte alone: `30_encoding.md` rule R95. -/
def formatOf (op : Byte) : Format :=
  match op.toNat with
  | 0x01 | 0x02 | 0x03 | 0x04 | 0x07 | 0x08 | 0x09 | 0x0A | 0x0B | 0x0C | 0x0D | 0x20 | 0x21 => .opXY
  | 0x22 | 0x23 | 0x25 | 0x29 | 0x2D | 0x4A => .opI8
  | 0x40 | 0x41 | 0x42 | 0x43 | 0x44 | 0x48 => .opI16
  | _ =>
    match (hiNibble op).toNat with
    | 0x8 | 0xE => .nI8
    | 0x9 | 0xF => .nI16
    | 0xA | 0xB | 0xC | 0xD => .n
    | _ => .op

/-- The length in bytes of an instruction, from its opcode byte alone, also of one that will fault on
its operands: `30_encoding.md` rule R95. -/
def instrLength (op : Byte) : Nat := (formatOf op).length

/-- The byte operations, `op <= 0x70`: `30_encoding.md` rules R92 and R96; every other byte is illegal
(rule R98). -/
def byteOperation (op b1 b2 : Byte) : Instr :=
  let x := hiNibble b1
  let y := loNibble b1
  let imm16 := joinBytes b2 b1
  match op.toNat with
  | 0x00 => .nop
  | 0x01 => .add8 x y
  | 0x02 => .add16 x y
  | 0x03 => .sub8 x y
  | 0x04 => .sub16 x y
  | 0x05 => .incc
  | 0x06 => .decc
  | 0x07 => .neg x y
  | 0x08 => .and8 x y
  | 0x09 => .or8 x y
  | 0x0A => .xor8 x y
  | 0x0B => .rol8 x y
  | 0x0C => .shf8 x y
  | 0x0D => .mul8 x y
  | 0x20 => .mov8 x y
  | 0x21 => .mov16 x y
  | 0x22 => .movx b1
  | 0x23 => .ldbBp b1
  | 0x24 => .ldbC
  | 0x25 => .stbBp b1
  | 0x26 => .stbC
  | 0x28 => .swp
  | 0x29 => .ldwBp b1
  | 0x2A => .ldwC
  | 0x2B => .rdt
  | 0x2C => .wrt
  | 0x2D => .stwBp b1
  | 0x2E => .stwC
  | 0x40 => .jmp imm16
  | 0x41 => .jz imm16
  | 0x42 => .jc imm16
  | 0x43 => .jnz imm16
  | 0x44 => .jnc imm16
  | 0x48 => .call imm16
  | 0x49 => .calla
  | 0x4A => .int b1
  | 0x4B => .ret
  | 0x4C => .rti
  | 0x50 => .ei
  | 0x51 => .di
  | 0x52 => .eci
  | 0x53 => .dci
  | 0x54 => .rsv54
  | 0x55 => .rsv55
  | 0x60 => .inp
  | 0x61 => .out
  | 0x70 => .hlt
  | _ => .illegal op

/-- The nibble operations, `op > 0x70`: the family is `op[7:4]`, the selector `op[3:0]`
(`30_encoding.md` rules R91, R92, R96). Family 0x7 is no family: an illegal opcode (decision D19). -/
def nibbleOperation (op b1 b2 : Byte) : Instr :=
  let sel := loNibble op
  let imm16 := joinBytes b2 b1
  match (hiNibble op).toNat with
  | 0x8 => .mvi8 sel b1
  | 0x9 => .mvi16 sel imm16
  | 0xA => .push8 sel
  | 0xB => .push16 sel
  | 0xC => .pop8 sel
  | 0xD => .pop16 sel
  | 0xE => .adi8 sel b1
  | 0xF => .adi16 sel imm16
  | _ => .illegal op

/-- The instruction with opcode byte `op` and trailing bytes `b1`, `b2`, of which it reads as many as
its format has: `30_encoding.md` rule R91. -/
def instrOf (op b1 b2 : Byte) : Instr :=
  if op.toNat ≤ 0x70 then byteOperation op b1 b2 else nibbleOperation op b1 b2

/-- Why a byte list is not decoded. -/
inductive DecodeError where
  /-- There is no opcode byte. -/
  | noBytes
  /-- The list ends before the last trailing byte of the instruction with opcode byte `op`. -/
  | truncated (op : Byte)
deriving DecidableEq, Repr

/-- Decode the instruction at the head of a byte list, at ascending addresses and opcode first
(`30_encoding.md` rule R90), and give the bytes after it. -/
def decode : List Byte → Except DecodeError (Instr × List Byte)
  | [] => .error .noBytes
  | op :: rest =>
    match instrLength op, rest with
    | 1, r => .ok (instrOf op 0 0, r)
    | 2, b1 :: r => .ok (instrOf op b1 0, r)
    | 3, b1 :: b2 :: r => .ok (instrOf op b1 b2, r)
    | _, _ => .error (.truncated op)

/-- The bytes of an instruction, lowest address first: `30_encoding.md` rules R92 and R96. -/
def encode : Instr → List Byte
  | .nop => [0x00]
  | .add8 x y => [0x01, joinNibbles x y]
  | .add16 x y => [0x02, joinNibbles x y]
  | .sub8 x y => [0x03, joinNibbles x y]
  | .sub16 x y => [0x04, joinNibbles x y]
  | .incc => [0x05]
  | .decc => [0x06]
  | .neg x y => [0x07, joinNibbles x y]
  | .and8 x y => [0x08, joinNibbles x y]
  | .or8 x y => [0x09, joinNibbles x y]
  | .xor8 x y => [0x0A, joinNibbles x y]
  | .rol8 x y => [0x0B, joinNibbles x y]
  | .shf8 x y => [0x0C, joinNibbles x y]
  | .mul8 x y => [0x0D, joinNibbles x y]
  | .mov8 x y => [0x20, joinNibbles x y]
  | .mov16 x y => [0x21, joinNibbles x y]
  | .movx tag => [0x22, tag]
  | .ldbBp d => [0x23, d]
  | .ldbC => [0x24]
  | .stbBp d => [0x25, d]
  | .stbC => [0x26]
  | .swp => [0x28]
  | .ldwBp d => [0x29, d]
  | .ldwC => [0x2A]
  | .rdt => [0x2B]
  | .wrt => [0x2C]
  | .stwBp d => [0x2D, d]
  | .stwC => [0x2E]
  | .jmp w => [0x40, lo w, hi w]
  | .jz w => [0x41, lo w, hi w]
  | .jc w => [0x42, lo w, hi w]
  | .jnz w => [0x43, lo w, hi w]
  | .jnc w => [0x44, lo w, hi w]
  | .call w => [0x48, lo w, hi w]
  | .calla => [0x49]
  | .int code => [0x4A, code]
  | .ret => [0x4B]
  | .rti => [0x4C]
  | .ei => [0x50]
  | .di => [0x51]
  | .eci => [0x52]
  | .dci => [0x53]
  | .rsv54 => [0x54]
  | .rsv55 => [0x55]
  | .inp => [0x60]
  | .out => [0x61]
  | .hlt => [0x70]
  | .mvi8 sel imm => [joinNibbles 0x8 sel, imm]
  | .mvi16 sel imm => [joinNibbles 0x9 sel, lo imm, hi imm]
  | .push8 sel => [joinNibbles 0xA sel]
  | .push16 sel => [joinNibbles 0xB sel]
  | .pop8 sel => [joinNibbles 0xC sel]
  | .pop16 sel => [joinNibbles 0xD sel]
  | .adi8 sel imm => [joinNibbles 0xE sel, imm]
  | .adi16 sel imm => [joinNibbles 0xF sel, lo imm, hi imm]
  | .illegal op => [op]

/-- The bytes of a table word: bits 7..0 of `w` are byte 0 of the instruction, bits 15..8 byte 1, bits
23..16 byte 2; bits at and above `nbits` are 0. Three bytes, the longest instruction. -/
def tableBytes (nbits w : Nat) : List Byte :=
  let v := w % 2 ^ nbits
  [BitVec.ofNat 8 v, BitVec.ofNat 8 (v / 256), BitVec.ofNat 8 (v / 65536)]

/-- The instruction the decoder reads from a table word, if it does not refuse it. -/
def decodeTableWord (nbits w : Nat) : Option Instr :=
  match decode (tableBytes nbits w) with
  | .ok (i, _) => some i
  | .error _ => none

end Sys2Proof
end

