-- ==== Sys2Proof/Machine/Phases.lean ====
section
/-!
DEFINITION. The phases of a step around the execution of the instruction: the clock interrupt, the
governor, the fetch, the count. `40_step_dispatch.md` rules R120 to R126, `60_exceptions.md` rule R286,
`70_reset_and_hazards.md` rule R332.
-/
namespace Sys2Proof.Machine

/-- "Pending" of `60_exceptions.md` rule R286: `clock_interrupt` and `ic = 0`, nothing latched. -/
def State.clockPending (s : State) : Bool := s.clockInterrupt && s.ic == 0x00

/-- Phase 1, rule R120: a pending clock interrupt is raised with code 1. -/
def State.clockPhase (s : State) : State := if s.clockPending then s.raiseInterrupt 0x01 else s

/-- The wall clock as the next Tick reads it: the time that has passed since is the head of `gaps`
(log entry 6). -/
def State.readClock (s : State) : State := { s with now := s.now + s.gaps.headD 0, gaps := s.gaps.tail }

/-- The governor's part of Tick, `70_reset_and_hazards.md` rule R332: the call that completes a cycle
waits until the clock reaches the deadline and moves the deadline on by `PERIOD`. -/
def State.throttle (s : State) : State :=
  if s.stage + 1 < s.multiplier then { s with stage := s.stage + 1 }
  else { s with stage := 0, now := max s.now s.nextTick, nextTick := s.nextTick + s.period }

/-- `Tick()`, the first half of phase 2, rules R120 and R332: once per step. -/
def State.tick (s : State) : State := s.readClock.throttle

/-- `ip` moved past the byte it points at, `40_step_dispatch.md` rule R123: modulo 65536. -/
def State.pastByte (s : State) : State := { s with ip := s.ip + 1#16 }

/-- The byte `Fetch8()` returns, rule R123. -/
def State.fetched (s : State) : Byte := s.readByte s.ip

/-- The opcode byte and as many trailing bytes as the format has are fetched, and `ip` stands after
the last: rules R123 to R125. -/
def State.fetchInstr (s : State) : Instr × State :=
  let op := s.fetched
  let s1 := s.pastByte
  match instrLength op with
  | 1 => (instrOf op 0 0, s1)
  | 2 => (instrOf op s1.fetched 0, s1.pastByte)
  | _ => (instrOf op s1.fetched s1.pastByte.fetched, s1.pastByte.pastByte)

/-- Phase 5, rule R126: `ic <- (ic + 1) mod 256`. -/
def State.countStep (s : State) : State := { s with ic := s.ic + 1#8 }

/-- The bytes `bs` stored at ascending addresses from `a`, modulo 65536. -/
def State.storeBytes (s : State) (a : Word) : List Byte → State
  | [] => s
  | b :: rest => (s.writeByte a b).storeBytes (a + 1#16) rest

/-- The address the next step fetches its opcode from: `ip` after phase 1. -/
def State.fetchAddress (s : State) : Word := s.clockPhase.ip

end Sys2Proof.Machine
end

