-- ==== Sys2Proof/Machine/Step.lean ====
section
/-!
DEFINITION. One step: `40_step_dispatch.md` rules R120 to R122.
-/
namespace Sys2Proof.Machine

/-- Phases 1 to 3 of a step, rule R120: the clock interrupt, Tick, the fetch. -/
def State.toExecute (s : State) : Instr × State := s.clockPhase.tick.fetchInstr

/-- One step, rule R120. Only a machine with `power_on = true` takes one (rule R121); inside the step
`power_on` is not tested again, so phases 2 to 5 run after a triple fault of phase 1 and phase 5 after
HLT (rule R122). A blocked IN or OUT is the machine stuck in phase 4 (`20_memory.md` rule R78). -/
def step (s : State) : Host.Outcome State Fault Refusal :=
  if s.powerOn then
    match exec s.toExecute.1 s.toExecute.2 with
    | .next s' => .next s'.countStep
    | .fault r => .fault r
    | .refused r => .refused r
  else .refused .poweredOff

/-- `s` with the bytes of a table word stored where its next step fetches (log entry 3): at `ip`, or at
the vector a pending clock interrupt will send `ip` to first. -/
def State.withFetchWord (s : State) (nbits w : Nat) : State :=
  s.storeBytes s.fetchAddress (tableBytes nbits w)

end Sys2Proof.Machine
end

