-- ==== Sys2Proof/Machine/Observe.lean ====
section
/-!
DEFINITION. What the host can observe between steps: `10_state.md` rule R41. Both are functions of the
state, so neither changes it.
-/
namespace Sys2Proof.Machine

/-- `is_on()`, rule R41. -/
def State.isOn (s : State) : Bool := s.powerOn

/-- The fields of the diagnostic dump, rule R41; its text format is not part of the contract. -/
structure Dump where
  prim : Bank
  shad : Bank
  ip : Word
  ic : Byte
  t : Byte
  interruptHandling : Bool
  clockInterrupt : Bool
  level : Level
  powerOn : Bool
deriving DecidableEq, Repr

/-- The full diagnostic dump, rule R41. -/
def State.dump (s : State) : Dump where
  prim := s.prim
  shad := s.shad
  ip := s.ip
  ic := s.ic
  t := s.t
  interruptHandling := s.interruptHandling
  clockInterrupt := s.clockInterrupt
  level := s.level
  powerOn := s.powerOn

end Sys2Proof.Machine
end

