-- ==== Sys2Proof/Machine/Construct.lean ====
section
/-!
DEFINITION. Construction, which is the machine's only reset: `70_reset_and_hazards.md` rules R310, R313
and R314, with the reset table of `10_state.md` rule R40.
-/
namespace Sys2Proof.Machine

/-- Why a machine is not built. The host sees it; no step ever answers with it. -/
inductive ConfigError where
  /-- `CLOCK_RATE` is not a positive finite number, rule R313, U14 and U15. -/
  | badClockRate
  /-- The image has more than 65536 bytes, rule R314 (log entry 21). -/
  | imageTooLong
deriving DecidableEq, Repr

/-- What the host supplies at construction, rules R310 and R314, and the two parameters of decisions
D13 and D18. -/
structure Launch where
  /-- The image, at addresses 0, 1, 2, ... An image of 65536 bytes is a whole `MEM0`. -/
  image : List Byte
  /-- `CLOCK_RATE`. -/
  rate : ClockRate
  /-- The wall-clock time of construction, in microseconds. -/
  time : Nat
  /-- The passing of wall-clock time after it. -/
  gaps : List Nat
  /-- `INPUT`. -/
  input : List Byte
  /-- What the output endpoint accepts. -/
  sink : Sink
  /-- `INPUT_EXHAUSTED`. -/
  inputExhausted : InputExhausted
  /-- `RTI_AT_LEVEL0_RESTORES_IP`. -/
  rtiRestoresIp : Bool
deriving DecidableEq, Repr

/-- The machine right after construction, `10_state.md` rule R40, or the configuration error. -/
def State.construct (l : Launch) : Except ConfigError State :=
  if !l.rate.valid then .error .badClockRate
  else if memorySize < l.image.length then .error .imageTooLong
  else .ok
    { State.reset with
      mem := Memory.load [] 0 l.image
      period := l.rate.period
      multiplier := l.rate.multiplier
      nextTick := l.time
      now := l.time
      gaps := l.gaps
      input := l.input
      sink := l.sink
      inputExhausted := l.inputExhausted
      rtiRestoresIp := l.rtiRestoresIp }

end Sys2Proof.Machine
end

