-- ==== Sys2Proof/Safety.lean ====
section
/-!
DEFINITION. The terms claims use: the invariant, the final and the stuck states, what a claim reads of a
state in the spec's own arithmetic, and what "unchanged" means for one.
-/
namespace Sys2Proof.Machine

/-! ## The invariant -/

/-- The reserved bits 7 to 2 of F are zero, `10_state.md` rule R26. -/
def Bank.ReservedZero (b : Bank) : Prop := b.f.toNat < 4

/-- What holds at construction and after every step: the memory is in its canonical form (log entry 1),
the reserved flag bits read as zero in both banks (`10_state.md` rule R26), and the governor's stage
stays in `0 .. MULTIPLIER - 1` with `PERIOD` at least 20 ms (`70_reset_and_hazards.md` rules R330, R332). -/
def State.Inv (s : State) : Prop :=
  Memory.wf s.mem = true ∧ s.prim.ReservedZero ∧ s.shad.ReservedZero ∧
    s.stage < s.multiplier ∧ 20000 ≤ s.period

/-! ## Final and stuck states: `00_scope.md` rule R18 -/

/-- A byte will come for IN: there is one in `INPUT`, or `INPUT_EXHAUSTED` gives one. -/
def State.CanInput (s : State) : Prop := s.input ≠ [] ∨ s.inputExhausted ≠ .stuck

/-- The output endpoint will take a byte. -/
def State.CanOutput (s : State) : Prop := s.sink ≠ .accepts 0

/-! ## Reading a state in the spec's arithmetic -/

/-- The unsigned value of the half-register that a g8 code 0 to 3 selects, `40_step_dispatch.md` rule
R127. -/
def Bank.g8Nat (b : Bank) (k : Code) : Nat :=
  match k.toNat with
  | 0 => b.a.toNat % 256
  | 2 => b.c.toNat % 256
  | _ => b.a.toNat / 256

/-- The unsigned value of the register that an r16 code 0 to 3 selects, `40_step_dispatch.md` rule R128. -/
def Bank.r16Nat (b : Bank) (k : Code) : Nat :=
  match k.toNat with
  | 0 => b.a.toNat
  | 1 => b.c.toNat
  | 2 => b.sp.toNat
  | _ => b.bp.toNat

/-- `signed8(b)` of `00_scope.md` rule R13. -/
def signed8 (b : Byte) : Int := if b.toNat < 128 then b.toNat else (b.toNat : Int) - 256

/-- `EA_BP(d)` of `42_moves_loads_stores.md` rule R188, as a number below 65536. -/
def State.eaBpNat (s : State) (d : Byte) : Nat := ((s.prim.bp.toNat + signed8 d) % 65536).toNat

/-- The unsigned value of the 16-bit datum at `a`, `20_memory.md` rule R63. -/
def State.wordNat (s : State) (a : Word) : Nat :=
  (s.readByte a).toNat + 256 * (s.readByte (a + 1#16)).toNat

/-- The bytes of an instruction, as numbers. -/
def EncodedAs (i : Instr) (bytes : List Nat) : Prop := (encode i).map BitVec.toNat = bytes

/-! ## What is unchanged -/

/-- Every byte of memory reads as before. -/
def SameBytes (s s' : State) : Prop := ∀ a : Word, s'.readByte a = s.readByte a

/-- Every byte of memory but those at `stored` reads as before. -/
def SameBytesBut (stored : List Word) (s s' : State) : Prop :=
  ∀ a : Word, a ∉ stored → s'.readByte a = s.readByte a

/-- Only the primary bank may differ: the shadow bank, `ip`, `ic`, `t`, the level, the mode bits, the
memory, the governor and the ports are as before. -/
def PrimOnly (s s' : State) : Prop := s' = { s with prim := s'.prim } ∧ SameBytes s s'

/-- Only the memory bytes at `stored` may differ. -/
def BytesOnly (stored : List Word) (s s' : State) : Prop :=
  s' = { s with mem := s'.mem } ∧ SameBytesBut stored s s'

/-- Every register part but the half-register of g8 code `k` is as before; F is another matter. -/
def G8Frame (k : Code) (b b' : Bank) : Prop :=
  b'.sp = b.sp ∧ b'.bp = b.bp ∧ b'.c.toNat / 256 = b.c.toNat / 256 ∧
    (k.toNat ≠ 2 → b'.c.toNat % 256 = b.c.toNat % 256) ∧
    (k.toNat ≠ 0 → b'.a.toNat % 256 = b.a.toNat % 256) ∧
    (k.toNat ≠ 1 → k.toNat ≠ 3 → b'.a.toNat / 256 = b.a.toNat / 256)

/-- Every register but that of r16 code `k` is as before; F is another matter. -/
def R16Frame (k : Code) (b b' : Bank) : Prop :=
  (k.toNat ≠ 0 → b'.a = b.a) ∧ (k.toNat ≠ 1 → b'.c = b.c) ∧ (k.toNat ≠ 2 → b'.sp = b.sp) ∧
    (k.toNat ≠ 3 → b'.bp = b.bp)

/-- The bits of F in `mask` are as before. -/
def FlagBitsKept (mask : Byte) (b b' : Bank) : Prop := b'.f &&& mask = b.f &&& mask

/-- `v` is in the half-register of g8 code `k`, and no other register part, nor anything outside the
primary bank, has changed; F is another matter. -/
def WroteG8 (k : Code) (v : Nat) (s s' : State) : Prop :=
  s'.prim.g8Nat k = v ∧ G8Frame k s.prim s'.prim ∧ PrimOnly s s'

/-- `v` is in the register of r16 code `k`, and no other register, nor anything outside the primary
bank, has changed; F is another matter. -/
def WroteR16 (k : Code) (v : Nat) (s s' : State) : Prop :=
  s'.prim.r16Nat k = v ∧ R16Frame k s.prim s'.prim ∧ PrimOnly s s'

/-! ## Which instructions do what -/

/-- The three classes of `30_encoding.md` rule R103. -/
inductive OpcodeClass where
  | byteOperation | nibbleOperation | illegalOpcode
deriving DecidableEq, Repr

/-- The class an instruction belongs to. -/
def opcodeClass : Instr → OpcodeClass
  | .illegal _ => .illegalOpcode
  | .mvi8 _ _ | .mvi16 _ _ | .push8 _ | .push16 _ | .pop8 _ | .pop16 _ | .adi8 _ _ | .adi16 _ _ =>
    .nibbleOperation
  | .nop | .incc | .decc | .ldbC | .stbC | .swp | .ldwC | .rdt | .wrt | .stwC | .calla | .ret | .rti
  | .ei | .di | .eci | .dci | .rsv54 | .rsv55 | .inp | .out | .hlt => .byteOperation
  | .add8 _ _ | .add16 _ _ | .sub8 _ _ | .sub16 _ _ | .neg _ _ | .and8 _ _ | .or8 _ _ | .xor8 _ _
  | .rol8 _ _ | .shf8 _ _ | .mul8 _ _ | .mov8 _ _ | .mov16 _ _ => .byteOperation
  | .movx _ | .ldbBp _ | .stbBp _ | .ldwBp _ | .stwBp _ | .int _ => .byteOperation
  | .jmp _ | .jz _ | .jc _ | .jnz _ | .jnc _ | .call _ => .byteOperation

/-- The instruction writes Z: the table of `10_state.md` rule R27. -/
def writesZ : Instr → Prop
  | .add8 _ _ | .add16 _ _ | .sub8 _ _ | .sub16 _ _ | .adi8 _ _ | .adi16 _ _ => True
  | _ => False

/-- The instruction writes CY: the table of `10_state.md` rule R27. -/
def writesCY : Instr → Prop
  | .add8 _ _ | .add16 _ _ | .mul8 _ _ | .adi8 _ _ | .adi16 _ _ => True
  | _ => False

/-- The addresses an instruction stores to from state `s`: the writes of `20_memory.md` rule R67. A
faulting push stores to none (`45_nibble_ops.md` rule R250). -/
def storedTo (s : State) : Instr → List Word
  | .stbBp d => [s.eaBp d]
  | .stbC => [s.prim.c]
  | .stwBp d => [s.eaBp d, s.eaBp d + 1#16]
  | .stwC => [s.prim.c, s.prim.c + 1#16]
  | .push8 sel => if sel.toNat ≤ 3 then [s.prim.sp - 1#16] else []
  | .push16 sel => if sel.toNat ≤ 3 then [s.prim.sp - 2#16, s.prim.sp - 1#16] else []
  | _ => []

/-- The instruction may write C-high: a 16-bit write of C, `10_state.md` rule R23, or SWP. -/
def mayWriteCHigh : Instr → Prop
  | .incc | .decc | .swp => True
  | .add16 x _ | .sub16 x _ | .mov16 x _ => x.toNat = 1
  | .neg x y => y.toNat = 1 ∧ x.toNat = 1
  | .mvi16 sel _ | .pop16 sel | .adi16 sel _ => sel.toNat = 1
  | _ => False

/-! ## The architectural part of a state -/

/-- The state with the governor and the wall clock left out, `70_reset_and_hazards.md` rule R334. -/
def State.untimed (s : State) : State :=
  { s with period := 0, multiplier := 0, stage := 0, nextTick := 0, now := 0, gaps := [] }

/-- Two outcomes agree but for the governor and the wall clock. -/
def SameUntimed : Result → Result → Prop
  | .next a, .next b => a.untimed = b.untimed
  | .fault a, .fault b => a = b
  | .refused a, .refused b => a = b
  | _, _ => False

end Sys2Proof.Machine
end

