-- ==== Sys2Proof/Certificates/Slice0/Obligations.lean ====
section
/-!
DEFINITION. The statements, for the provers. `exec` is the execute phase of an instruction: its bytes are
fetched and `ip` stands after its last byte (`10_state.md` rule R30); a step around it is
`StepRunsTheDecodedInstruction`.
-/
open Sys2Proof Sys2Proof.Machine

/-! ## Encoding and decoding: `30_encoding.md` -/

/-- Decoding the bytes of a well-formed instruction gives it back, with the bytes after it untouched.
The layout of the operand byte is the spec's decision D1 (log entry 13). The byte order of the
immediates of CALL and ADI16 is its decision D7 (log entry 15). -/
def Obligations.DecodeAfterEncode : Prop :=
  ∀ (i : Instr) (rest : List Byte), i.wf = true → decode (encode i ++ rest) = .ok (i, rest)

/-- What decodes is well-formed, and its encoding is the bytes it was decoded from: no bit of an
instruction is dropped and none is read twice. The layout of the operand byte is the spec's decision D1
(log entry 13), the byte order of the immediates of CALL and ADI16 its decision D7 (log entry 15). -/
def Obligations.EncodeAfterDecode : Prop :=
  ∀ (bytes rest : List Byte) (i : Instr),
    decode bytes = .ok (i, rest) → i.wf = true ∧ encode i ++ rest = bytes

/-- Rules R91, R98 and R103: by its opcode byte alone an instruction is exactly one of an illegal opcode
(the list of rule R98), a byte operation (`op <= 0x70`) or a nibble operation. That 0x71 to 0x7F are
illegal is the spec's decision D19 (log entry 17). -/
def Obligations.DecoderClassifiesEveryOpcode : Prop :=
  ∀ (op b1 b2 : Byte) (rest : List Byte), ∃ (i : Instr) (left : List Byte),
    decode (op :: b1 :: b2 :: rest) = .ok (i, left) ∧
    (opcodeClass i =
      if (0x0E ≤ op.toNat ∧ op.toNat ≤ 0x1F) ∨ op.toNat = 0x27 ∨ (0x2F ≤ op.toNat ∧ op.toNat ≤ 0x3F) ∨
          (0x45 ≤ op.toNat ∧ op.toNat ≤ 0x47) ∨ (0x4D ≤ op.toNat ∧ op.toNat ≤ 0x4F) ∨
          (0x56 ≤ op.toNat ∧ op.toNat ≤ 0x5F) ∨ (0x62 ≤ op.toNat ∧ op.toNat ≤ 0x6F) ∨
          (0x71 ≤ op.toNat ∧ op.toNat ≤ 0x7F)
      then .illegalOpcode
      else if op.toNat ≤ 0x70 then .byteOperation else .nibbleOperation) ∧
    (opcodeClass i = .illegalOpcode → i = .illegal op)

/-- Rule R95: the length is a function of the opcode byte alone, also for an instruction whose operands
will fault. That a faulting instruction has the same length is the spec's decision D3 (log entry 14). -/
def Obligations.LengthIsFixedByTheOpcode : Prop :=
  ∀ (op : Byte) (tail rest : List Byte) (i : Instr), decode (op :: tail) = .ok (i, rest) →
    tail.length + 1 = rest.length +
      (if op.toNat ∈ [0x01, 0x02, 0x03, 0x04, 0x07, 0x08, 0x09, 0x0A, 0x0B, 0x0C, 0x0D, 0x20, 0x21] then 2
       else if op.toNat ∈ [0x22, 0x23, 0x25, 0x29, 0x2D, 0x4A] then 2
       else if op.toNat ∈ [0x40, 0x41, 0x42, 0x43, 0x44, 0x48] then 3
       else if op.toNat / 16 ∈ [0x8, 0xE] then 2
       else if op.toNat / 16 ∈ [0x9, 0xF] then 3
       else 1)

/-- Words written out from the encodings of the spec decode to the instructions they stand for: one of
each format, and an illegal byte. That 20 12 is MOV8 1 2 is the spec's decision D1 (log entry 13), that
F2 FC FF is ADI16 2 0xFFFC its decision D7 (log entry 15). -/
def Obligations.SampleWordsDecode : Prop :=
  decode [0x05] = .ok (.incc, []) ∧
  decode [0x20, 0x12] = .ok (.mov8 1 2, []) ∧
  decode [0x23, 0xFF] = .ok (.ldbBp 0xFF, []) ∧
  decode [0x40, 0x34, 0x12] = .ok (.jmp 0x1234, []) ∧
  decode [0xB2] = .ok (.push16 2, []) ∧
  decode [0x83, 0x7F] = .ok (.mvi8 3 0x7F, []) ∧
  decode [0xF2, 0xFC, 0xFF] = .ok (.adi16 2 0xFFFC, []) ∧
  decode [0x0E] = .ok (.illegal 0x0E, [])

/-! ## The step: `40_step_dispatch.md` -/

/-- Rule R120. A step of a machine that is on: a pending clock interrupt is raised, the governor ticks,
and the instruction whose bytes then stand at `ip` is executed with `ip` after its last byte; `ic`
counts the step, whatever the instruction did. That a fault or a refusal of exec is the answer of the
step is the model's form of a blocked step (log entries 7, 8 and 12, DESIGN CHOICE). That ip stands
after all bytes of an instruction that faults is the spec's decision D3 (log entry 14), that there is
one Tick its decision D16 (log entry 20), and that phase 5 follows also when the power goes off its
decision D14 (log entry 24). -/
def Obligations.StepRunsTheDecodedInstruction : Prop :=
  ∀ (s s1 : State) (i : Instr) (rest : List Byte), s.powerOn = true →
    s1 = (if s.clockInterrupt = true ∧ s.ic = 0x00 then s.raiseInterrupt 0x01 else s) →
    decode [s1.readByte s1.ip, s1.readByte (s1.ip + 1), s1.readByte (s1.ip + 2)] = .ok (i, rest) →
    step s =
      match exec i { s1.tick with ip := s1.ip + BitVec.ofNat 16 (encode i).length } with
      | .next s' => .next { s' with ic := s'.ic + 1 }
      | .fault r => .fault r
      | .refused r => .refused r

/-- Rule R121: a machine that is off takes no step. The refusal is the model's (log entry 11), after the
spec's decision D15. -/
def Obligations.PoweredOffTakesNoStep : Prop :=
  ∀ s : State, s.powerOn = false → step s = .refused .poweredOff

/-- Rules R31 and R126: every completed step moves `ic` on by one modulo 256, and no instruction writes
`ic`. That it is exactly once in every case is the spec's decision D32 (log entry 24). -/
def Obligations.EveryStepCountsOnce : Prop :=
  (∀ (i : Instr) (s s' : State), exec i s = .next s' → s'.ic = s.ic) ∧
  (∀ s s' : State, step s = .next s' → s'.ic.toNat = (s.ic.toNat + 1) % 256)

/-- Rules R18 and R78: a machine that is on takes its step, whatever its state, unless the instruction
is an IN for which no byte will come or an OUT that will not be accepted; there it is stuck. The two
faults are the model's form of the stuck states of the spec's decision D18 (log entries 7 and 8). -/
def Obligations.StepCompletesUnlessAPortBlocks : Prop :=
  ∀ s : State, s.powerOn = true →
    (s.toExecute.1 = .inp ∧ ¬ s.CanInput → step s = .fault .inputBlocked) ∧
    (s.toExecute.1 = .out ∧ ¬ s.CanOutput → step s = .fault .outputBlocked) ∧
    (¬ (s.toExecute.1 = .inp ∧ ¬ s.CanInput) → ¬ (s.toExecute.1 = .out ∧ ¬ s.CanOutput) →
      ∃ s', step s = .next s')

/-! ## Reset and the invariant -/

/-- The invariant holds right after reset. The canonical memory form is the model's (log entries 1 and
19). -/
def Obligations.ResetMeetsTheInvariant : Prop := State.reset.Inv

/-- The invariant holds right after construction, whatever the host supplies. The canonical memory form
is the model's (log entries 1 and 19). -/
def Obligations.ConstructionMeetsTheInvariant : Prop :=
  ∀ (l : Launch) (s : State), State.construct l = .ok s → s.Inv

/-- Every step keeps the invariant: the memory's canonical form (log entry 1), the reserved bits of both
F registers at zero (`10_state.md` rule R26), and the governor's stage below MULTIPLIER
(`70_reset_and_hazards.md` rule R332). The canonical form is the model's choice; the zero of the
reserved bits is the spec's decision D10. -/
def Obligations.StepKeepsTheInvariant : Prop :=
  ∀ s s' : State, s.Inv → step s = .next s' → s'.Inv

/-- `10_state.md` rule R40: the state after construction, every row of its table. The values outside the
banks are the spec's decisions D5 and D16 (log entry 4). -/
def Obligations.ConstructionState : Prop :=
  ∀ (l : Launch), l.rate.valid = true → l.image.length ≤ 65536 →
    ∃ s, State.construct l = .ok s ∧
      (s.prim.a = 0 ∧ s.prim.c = 0 ∧ s.prim.sp = 0 ∧ s.prim.bp = 0 ∧ s.prim.f = 0) ∧
      (s.shad.a = 0 ∧ s.shad.c = 0 ∧ s.shad.sp = 0 ∧ s.shad.bp = 0 ∧ s.shad.f = 0) ∧
      s.ip = 0 ∧ s.ic = 0 ∧ s.t = 0 ∧ s.level = .zero ∧ s.interruptHandling = false ∧
      s.clockInterrupt = false ∧ s.powerOn = true ∧
      (∀ a : Word, a.toNat < l.image.length → l.image[a.toNat]? = some (s.readByte a)) ∧
      s.stage = 0 ∧ s.nextTick = l.time ∧ s.period = l.rate.period ∧ s.multiplier = l.rate.multiplier ∧
      s.input = l.input ∧ s.output = []

/-- `70_reset_and_hazards.md` rule R313: with a clock rate that is not above zero no machine is built. -/
def Obligations.ConstructionRefusesABadRate : Prop :=
  ∀ l : Launch, l.rate.num ≤ 0 → State.construct l = .error .badClockRate

/-! ## The clock governor: `70_reset_and_hazards.md` -/

/-- Rule R330, over the rationals: the governor's two constants from the clock rate. The rate is a
fraction and the arithmetic exact (log entry 5). -/
def Obligations.GovernorConstants : Prop :=
  ∀ r : ClockRate, r.valid = true → ∀ q : ℚ, q = (r.num : ℚ) / (r.den : ℚ) →
    (r.period : ℤ) = max 20000 (20000 * ⌊(1000000 / q) / 20000⌋) ∧
    (r.multiplier : ℤ) = max 1 ⌊q / 50⌋

/-- Rules R332 and R333: Tick advances the stage except on the call that completes a cycle, which resets
it, waits until the clock has reached the deadline and no longer, and moves the deadline on by PERIOD;
nothing else changes. `clock` is the wall clock at the call. How the wall clock is held is the model's
(log entry 6). -/
def Obligations.TickProcedure : Prop :=
  ∀ (s : State) (clock : Nat), clock = s.now + s.gaps.headD 0 →
    (s.stage + 1 < s.multiplier →
      s.tick = { s with stage := s.stage + 1, now := clock, gaps := s.gaps.tail }) ∧
    (s.multiplier ≤ s.stage + 1 → ∃ after : Nat,
      s.tick = { s with stage := 0, nextTick := s.nextTick + s.period, now := after, gaps := s.gaps.tail } ∧
      clock ≤ after ∧ s.nextTick ≤ after ∧ (clock < s.nextTick → after = s.nextTick) ∧
      (s.nextTick ≤ clock → after = clock))

/-- Rule R335 and trace G1 of `95_test_vectors.md`: at clock rate 100, with no time passing but by
waiting, four Ticks from construction at time T0 end at T0 + 20 ms. That no other time passes is this
statement's choice of clock (log entry 6). -/
def Obligations.FourTicksAtRate100 : Prop :=
  ∀ (l : Launch) (s : State), l.rate = { num := 100, den := 1 } → l.gaps = [] →
    State.construct l = .ok s →
    s.tick.tick.now = l.time ∧ s.tick.tick.tick.tick.now = l.time + 20000 ∧
      s.tick.tick.tick.tick.nextTick = l.time + 40000 ∧ s.tick.tick.tick.tick.stage = 0

/-- Rule R334: the governor and the wall clock change nothing an instruction can observe. Two machines
that agree but for them take steps that agree but for them. The clock fields are the model's (log entry
6); that the governor is invisible is also the spec's decision D17. -/
def Obligations.GovernorIsInvisible : Prop :=
  ∀ s u : State, s.untimed = u.untimed → SameUntimed (step s) (step u)

/-! ## The interrupt controller: `60_exceptions.md` -/

/-- Rules R272 to R274 and R276: the raise procedure. Masked it does nothing; at level 2 it only turns
the power off; below, it saves `ip` in `S.A`, sends `ip` to the vector of the code, redirected at level
1, raises the level, and changes nothing else. The mask test first, the modulus and what entry leaves
alone are the spec's decisions D28, D23 and D26 (log entries 24 and 25). -/
def Obligations.RaiseProcedure : Prop :=
  ∀ (s : State) (code : Byte),
    (s.interruptHandling = false → s.raiseInterrupt code = s) ∧
    (s.interruptHandling = true → s.level = .two → s.raiseInterrupt code = { s with powerOn := false }) ∧
    (s.interruptHandling = true → s.level ≠ .two → ∃ (vector : Word) (up : Level) (eff : Nat),
      s.raiseInterrupt code =
        { s with shad := { s.shad with a := s.ip }, ip := vector, level := up } ∧
      vector.toNat = (16 * eff + 2048 * s.t.toNat) % 65536 ∧
      (s.level = .zero → up = .one ∧ eff = code.toNat) ∧
      (s.level = .one → up = .two ∧
        eff = if code.toNat ∈ [0, 2, 3] then code.toNat else 3))

/-- `40_step_dispatch.md` rule R133: the effect of an illegal opcode byte is to raise Interrupt(0),
whichever byte it is; in a step, `ip` is then the address after that one byte. That 0x71 to 0x7F are
among the illegal bytes is the spec's decision D19 (log entry 17). -/
def Obligations.IllegalOpcodeRaisesFaultZero : Prop :=
  (∀ (op : Byte) (s : State), exec (.illegal op) s = .next (s.raiseInterrupt 0x00)) ∧
  (∀ s : State, s.powerOn = true → ¬ (s.clockInterrupt = true ∧ s.ic = 0x00) →
    isIllegalOpcode (s.readByte s.ip) = true →
    step s = .next { ({ s.tick with ip := s.ip + 1 }).raiseInterrupt 0x00 with ic := s.ic + 1 })

/-- Rules R97, R99 and R134: an instruction with an operand outside its list does nothing but raise
Interrupt(0). That nothing else happens is the spec's decision D3 (log entry 14). -/
def Obligations.BadOperandsOnlyRaise : Prop :=
  ∀ (i : Instr) (s : State), i.operandsLegal = false → exec i s = .next (s.raiseInterrupt 0x00)

/-- Rules R135 and R284: with interrupts masked, an instruction that would fault, an illegal opcode byte,
INT and RTI at level 0 change nothing. (For RTI this is the parameter RTI_AT_LEVEL0_RESTORES_IP at its
default.) -/
def Obligations.MaskedFaultsDoNothing : Prop :=
  ∀ s : State, s.interruptHandling = false →
    (∀ i : Instr, i.operandsLegal = false → exec i s = .next s) ∧
    (∀ op : Byte, exec (.illegal op) s = .next s) ∧
    (∀ code : Byte, exec (.int code) s = .next s) ∧
    (s.level = .zero → s.rtiRestoresIp = false → exec .rti s = .next s)

/-- Rule R280: a clock interrupt taken from level 0 whose handler begins with an illegal opcode byte nests
in the same step: level 2, `S.A` the address after that byte, `ip` the fault vector. -/
def Obligations.ClockInterruptThenFaultNests : Prop :=
  ∀ (s : State) (v : Word), s.powerOn = true → s.interruptHandling = true → s.level = .zero →
    s.clockInterrupt = true → s.ic = 0x00 → v = BitVec.ofNat 16 (16 + 2048 * s.t.toNat) →
    isIllegalOpcode (s.readByte v) = true →
    ∃ s', step s = .next s' ∧ s'.level = .two ∧ s'.shad = { s.shad with a := v + 1 } ∧
      s'.ip.toNat = 2048 * s.t.toNat % 65536 ∧ s'.ic = 0x01 ∧ s'.prim = s.prim ∧ s'.powerOn = true ∧
      SameBytes s s'

/-- `43_control_transfer.md` rule R218: INT is two bytes and its effect is the raise of its code. -/
def Obligations.IntRaisesItsCode : Prop :=
  ∀ (code : Byte) (s : State),
    EncodedAs (.int code) [0x4A, code.toNat] ∧ exec (.int code) s = .next (s.raiseInterrupt code)

/-- `43_control_transfer.md` rule R220: RTI lowers the level and restores `ip` from `S.A`, and nothing
else; at level 0 it is a BadParameter fault, after which `ip` is restored only under the parameter of
decision D13. The level 0 case is the spec's decision D13 (log entry 10). -/
def Obligations.RtiResult : Prop :=
  EncodedAs .rti [0x4C] ∧
  ∀ s : State,
    (s.level = .two → exec .rti s = .next { s with level := .one, ip := s.shad.a }) ∧
    (s.level = .one → exec .rti s = .next { s with level := .zero, ip := s.shad.a }) ∧
    (s.level = .zero → s.rtiRestoresIp = false → exec .rti s = .next (s.raiseInterrupt 0x00)) ∧
    (s.level = .zero → s.rtiRestoresIp = true → ∃ f, f = s.raiseInterrupt 0x00 ∧
      exec .rti s = .next { f with ip := f.shad.a })

/-! ## Rules over the whole machine -/

/-- Rules R36, R122, R138 and R285: a step ends with the power off exactly if its instruction is HLT, or
the clock interrupt of phase 1 is a triple fault, or the instruction raises at level 2: an illegal
opcode byte, INT, or an operand outside its list. Interrupts are unmasked in the last two. That the step
goes on after a triple fault of phase 1 is the spec's decision D14 (log entry 24). -/
def Obligations.PowerGoesOffOnlyByHaltOrTripleFault : Prop :=
  ∀ s s' : State, step s = .next s' →
    (s'.powerOn = false ↔
      s.toExecute.1 = .hlt ∨
      (s.interruptHandling = true ∧ s.level = .two ∧ s.clockInterrupt = true ∧ s.ic = 0x00) ∨
      (s.interruptHandling = true ∧ s.toExecute.2.level = .two ∧
        (s.toExecute.1.operandsLegal = false ∨ (∃ code, s.toExecute.1 = .int code) ∨
          ∃ op, s.toExecute.1 = .illegal op)))

/-- `10_state.md` rule R27: the flags that each instruction writes; an instruction not in its table
leaves F as it is. SWP exchanges the two F registers. That an unlisted instruction leaves F alone is the
spec's decision D10 (log entry 16). -/
def Obligations.FlagsWrittenOnlyByTheListed : Prop :=
  ∀ (i : Instr) (s s' : State), exec i s = .next s' →
    (i = .swp → s'.prim.f = s.shad.f ∧ s'.shad.f = s.prim.f) ∧
    (i ≠ .swp →
      (¬ writesZ i → s'.prim.f.getLsbD 0 = s.prim.f.getLsbD 0) ∧
      (¬ writesCY i → s'.prim.f.getLsbD 1 = s.prim.f.getLsbD 1) ∧
      s'.prim.f &&& 0xFC = s.prim.f &&& 0xFC ∧ s'.shad.f = s.shad.f)

/-- `20_memory.md` rules R67 and R73: a step writes no byte of memory but those its instruction stores to,
and interrupt entry writes none. -/
def Obligations.MemoryWrittenOnlyByStores : Prop :=
  (∀ (i : Instr) (s s' : State), exec i s = .next s' → SameBytesBut (storedTo s i) s s') ∧
  (∀ s s' : State, step s = .next s' →
    SameBytesBut (storedTo s.toExecute.2 s.toExecute.1) s s')

/-- `10_state.md` rule R21: the shadow bank changes only by SWP, which exchanges the banks, and by interrupt
entry, which writes `S.A` and raises the level. -/
def Obligations.ShadowBankChangedOnlyBySwapOrEntry : Prop :=
  ∀ (i : Instr) (s s' : State), exec i s = .next s' →
    s'.shad = s.shad ∨ (i = .swp ∧ s'.shad = s.prim ∧ s'.prim = s.shad) ∨
    (s'.shad = { s.shad with a := s.ip } ∧ s'.prim = s.prim ∧ s.interruptHandling = true ∧
      s.level ≠ .two ∧ s'.level ≠ .zero)

/-- `10_state.md` rules R32, R34, R35, R36, R38 and `20_memory.md` rule R75: what an instruction may write of
the state outside the banks. `t` by WRT only, the two mode bits by their two instructions only, the input
and the output port by IN and OUT only; the governor, the wall clock and the parameters by none. -/
def Obligations.ControlStateWrittenOnlyByItsInstructions : Prop :=
  ∀ (i : Instr) (s s' : State), exec i s = .next s' →
    (i ≠ .wrt → s'.t = s.t) ∧
    (i ≠ .ei → i ≠ .di → s'.interruptHandling = s.interruptHandling) ∧
    (i ≠ .eci → i ≠ .dci → s'.clockInterrupt = s.clockInterrupt) ∧
    (s.powerOn = false → s'.powerOn = false) ∧
    (i ≠ .inp → s'.input = s.input) ∧
    (i ≠ .out → s'.output = s.output ∧ s'.sink = s.sink) ∧
    (s'.period = s.period ∧ s'.multiplier = s.multiplier ∧ s'.stage = s.stage ∧
      s'.nextTick = s.nextTick ∧ s'.now = s.now ∧ s'.gaps = s.gaps) ∧
    (s'.inputExhausted = s.inputExhausted ∧ s'.rtiRestoresIp = s.rtiRestoresIp)

/-- `10_state.md` rule R23, `70_reset_and_hazards.md` rule R322: no byte operation reaches C-high; it changes
only through 16-bit writes of C and through SWP. -/
def Obligations.CHighChangedOnlyByWordWrites : Prop :=
  ∀ (i : Instr) (s s' : State), exec i s = .next s' → ¬ mayWriteCHigh i →
    s'.prim.c.toNat / 256 = s.prim.c.toNat / 256

/-! ## Arithmetic and logic: `41_alu.md` -/

/-- Rules R151, R234 and R235: NOP and the two reserved no-ops change nothing. That 0x54 and 0x55 are
legal is the spec's decision D30 (log entry 26). -/
def Obligations.NopsChangeNothing : Prop :=
  (EncodedAs .nop [0x00] ∧ EncodedAs .rsv54 [0x54] ∧ EncodedAs .rsv55 [0x55]) ∧
  ∀ s : State, exec .nop s = .next s ∧ exec .rsv54 s = .next s ∧ exec .rsv55 s = .next s

/-- Rule R152: ADD8. The layout of the operand byte is the spec's decision D1 (log entry 13); that a bad
operand does nothing but raise is its decision D3 (log entry 14). -/
def Obligations.Add8Result : Prop :=
  ∀ (s : State) (x y : Code) (sum : Nat),
    EncodedAs (.add8 x y) [0x01, 16 * x.toNat + y.toNat] ∧
    (x.toNat ≤ 3 → y.toNat ≤ 3 → sum = s.prim.g8Nat x + s.prim.g8Nat y →
      ∃ s', exec (.add8 x y) s = .next s' ∧ WroteG8 x (sum % 256) s s' ∧
        s'.prim.f.getLsbD 1 = decide (255 < sum) ∧ s'.prim.f.getLsbD 0 = decide (sum % 256 = 0) ∧
        FlagBitsKept 0xFC s.prim s'.prim) ∧
    (3 < x.toNat ∨ 3 < y.toNat → exec (.add8 x y) s = .next (s.raiseInterrupt 0x00))

/-- Rule R153: ADD16. The layout of the operand byte is the spec's decision D1 (log entry 13); that a
bad operand does nothing but raise is its decision D3 (log entry 14). -/
def Obligations.Add16Result : Prop :=
  ∀ (s : State) (x y : Code) (sum : Nat),
    EncodedAs (.add16 x y) [0x02, 16 * x.toNat + y.toNat] ∧
    (x.toNat ≤ 3 → y.toNat ≤ 3 → sum = s.prim.r16Nat x + s.prim.r16Nat y →
      ∃ s', exec (.add16 x y) s = .next s' ∧ WroteR16 x (sum % 65536) s s' ∧
        s'.prim.f.getLsbD 1 = decide (65535 < sum) ∧ s'.prim.f.getLsbD 0 = decide (sum % 65536 = 0) ∧
        FlagBitsKept 0xFC s.prim s'.prim) ∧
    (3 < x.toNat ∨ 3 < y.toNat → exec (.add16 x y) s = .next (s.raiseInterrupt 0x00))

/-- Rule R154: SUB8, which leaves CY as it is. That CY is kept is the spec's decision D27 (log entry
16). The layout of the operand byte is the spec's decision D1 (log entry 13); that a bad operand does
nothing but raise is its decision D3 (log entry 14). -/
def Obligations.Sub8Result : Prop :=
  ∀ (s : State) (x y : Code) (diff : Int),
    EncodedAs (.sub8 x y) [0x03, 16 * x.toNat + y.toNat] ∧
    (x.toNat ≤ 3 → y.toNat ≤ 3 → diff = ((s.prim.g8Nat x : Int) - s.prim.g8Nat y) % 256 →
      ∃ s', exec (.sub8 x y) s = .next s' ∧ WroteG8 x diff.toNat s s' ∧
        s'.prim.f.getLsbD 0 = decide (diff = 0) ∧ FlagBitsKept 0xFE s.prim s'.prim) ∧
    (3 < x.toNat ∨ 3 < y.toNat → exec (.sub8 x y) s = .next (s.raiseInterrupt 0x00))

/-- Rule R155: SUB16, which leaves CY as it is. That CY is kept is the spec's decision D27 (log entry
16). The layout of the operand byte is the spec's decision D1 (log entry 13); that a bad operand does
nothing but raise is its decision D3 (log entry 14). -/
def Obligations.Sub16Result : Prop :=
  ∀ (s : State) (x y : Code) (diff : Int),
    EncodedAs (.sub16 x y) [0x04, 16 * x.toNat + y.toNat] ∧
    (x.toNat ≤ 3 → y.toNat ≤ 3 → diff = ((s.prim.r16Nat x : Int) - s.prim.r16Nat y) % 65536 →
      ∃ s', exec (.sub16 x y) s = .next s' ∧ WroteR16 x diff.toNat s s' ∧
        s'.prim.f.getLsbD 0 = decide (diff = 0) ∧ FlagBitsKept 0xFE s.prim s'.prim) ∧
    (3 < x.toNat ∨ 3 < y.toNat → exec (.sub16 x y) s = .next (s.raiseInterrupt 0x00))

/-- Rules R156 and R157: INCC and DECC count C modulo 65536 and write no flag. That F is kept is the
spec's decision D10 (log entry 16). -/
def Obligations.CountCResult : Prop :=
  (EncodedAs .incc [0x05] ∧ EncodedAs .decc [0x06]) ∧
  ∀ s : State,
    (∃ s', exec .incc s = .next s' ∧ WroteR16 1 ((s.prim.c.toNat + 1) % 65536) s s' ∧
      s'.prim.f = s.prim.f) ∧
    (∃ s', exec .decc s = .next s' ∧ WroteR16 1 ((s.prim.c.toNat + 65535) % 65536) s s' ∧
      s'.prim.f = s.prim.f)

/-- Rule R158: NEG, mode 0 on g8 codes 0 to 3, mode 1 on g16 codes 0 and 1; no flag. Which field is the
mode is the spec's decision D2 (log entry 13), that no flag is written D10 (log entry 16). The layout of
the operand byte is the spec's decision D1 (log entry 13); that a bad operand does nothing but raise is
its decision D3 (log entry 14). -/
def Obligations.NegResult : Prop :=
  ∀ (s : State) (x y : Code),
    EncodedAs (.neg x y) [0x07, 16 * x.toNat + y.toNat] ∧
    (y.toNat = 0 → x.toNat ≤ 3 → ∃ s', exec (.neg x y) s = .next s' ∧
      WroteG8 x ((256 - s.prim.g8Nat x) % 256) s s' ∧ s'.prim.f = s.prim.f) ∧
    (y.toNat = 1 → x.toNat ≤ 1 → ∃ s', exec (.neg x y) s = .next s' ∧
      WroteR16 x ((65536 - s.prim.r16Nat x) % 65536) s s' ∧ s'.prim.f = s.prim.f) ∧
    (2 ≤ y.toNat ∨ (y.toNat = 0 ∧ 3 < x.toNat) ∨ (y.toNat = 1 ∧ 1 < x.toNat) →
      exec (.neg x y) s = .next (s.raiseInterrupt 0x00))

/-- Rules R159 to R161: AND8, OR8, XOR8, bitwise on 8 bits; no flag. That F is kept is the spec's
decision D10 (log entry 16). The layout of the operand byte is the spec's decision D1 (log entry 13);
that a bad operand does nothing but raise is its decision D3 (log entry 14). -/
def Obligations.LogicResult : Prop :=
  ∀ (s : State) (x y : Code),
    (EncodedAs (.and8 x y) [0x08, 16 * x.toNat + y.toNat] ∧
      EncodedAs (.or8 x y) [0x09, 16 * x.toNat + y.toNat] ∧
      EncodedAs (.xor8 x y) [0x0A, 16 * x.toNat + y.toNat]) ∧
    (x.toNat ≤ 3 → y.toNat ≤ 3 →
      (∃ s', exec (.and8 x y) s = .next s' ∧ WroteG8 x (s.prim.g8Nat x &&& s.prim.g8Nat y) s s' ∧
        s'.prim.f = s.prim.f) ∧
      (∃ s', exec (.or8 x y) s = .next s' ∧ WroteG8 x (s.prim.g8Nat x ||| s.prim.g8Nat y) s s' ∧
        s'.prim.f = s.prim.f) ∧
      (∃ s', exec (.xor8 x y) s = .next s' ∧ WroteG8 x (s.prim.g8Nat x ^^^ s.prim.g8Nat y) s s' ∧
        s'.prim.f = s.prim.f)) ∧
    (3 < x.toNat ∨ 3 < y.toNat →
      exec (.and8 x y) s = .next (s.raiseInterrupt 0x00) ∧
      exec (.or8 x y) s = .next (s.raiseInterrupt 0x00) ∧
      exec (.xor8 x y) s = .next (s.raiseInterrupt 0x00))

/-- Rule R162: ROL8, amounts 0 to 7; 8 to 15 fault; no flag. That F is kept is the spec's decision D10
(log entry 16). The layout of the operand byte is the spec's decision D1 (log entry 13); that a bad
operand does nothing but raise is its decision D3 (log entry 14). -/
def Obligations.Rol8Result : Prop :=
  ∀ (s : State) (x y : Code) (v : Nat),
    EncodedAs (.rol8 x y) [0x0B, 16 * x.toNat + y.toNat] ∧
    (x.toNat ≤ 3 → y.toNat ≤ 7 → v = s.prim.g8Nat x → ∃ s', exec (.rol8 x y) s = .next s' ∧
      WroteG8 x (v * 2 ^ y.toNat % 256 + v / 2 ^ (8 - y.toNat)) s s' ∧ s'.prim.f = s.prim.f) ∧
    (3 < x.toNat ∨ 7 < y.toNat → exec (.rol8 x y) s = .next (s.raiseInterrupt 0x00))

/-- Rule R163: SHF8, left by 0 to 7, or right by `16 - y` for `y` in 8 to 15; no amount faults; no flag.
The shift by 8 is the spec's decision D29 (log entry 23), that F is kept D10 (log entry 16). The layout
of the operand byte is the spec's decision D1 (log entry 13); that a bad operand does nothing but raise
is its decision D3 (log entry 14). -/
def Obligations.Shf8Result : Prop :=
  ∀ (s : State) (x y : Code) (v : Nat),
    EncodedAs (.shf8 x y) [0x0C, 16 * x.toNat + y.toNat] ∧
    (x.toNat ≤ 3 → v = s.prim.g8Nat x → ∃ s', exec (.shf8 x y) s = .next s' ∧
      WroteG8 x (if y.toNat ≤ 7 then v * 2 ^ y.toNat % 256 else v / 2 ^ (16 - y.toNat)) s s' ∧
      s'.prim.f = s.prim.f) ∧
    (3 < x.toNat → exec (.shf8 x y) s = .next (s.raiseInterrupt 0x00))

/-- Rule R164: MUL8, the narrow form for `y` in 0 to 3 and the wide form for `y = 4`; CY assigned, Z
kept. The wide form and the kept Z are the spec's decision D11 (log entry 23). The layout of the operand
byte is the spec's decision D1 (log entry 13); that a bad operand does nothing but raise is its decision
D3 (log entry 14). -/
def Obligations.Mul8Result : Prop :=
  ∀ (s : State) (x y : Code) (p : Nat),
    EncodedAs (.mul8 x y) [0x0D, 16 * x.toNat + y.toNat] ∧
    (x.toNat ≤ 3 → y.toNat ≤ 3 → p = s.prim.g8Nat x * s.prim.g8Nat y →
      ∃ s', exec (.mul8 x y) s = .next s' ∧ WroteG8 x (p % 256) s s' ∧
        s'.prim.f.getLsbD 1 = decide (255 < p) ∧ FlagBitsKept 0xFD s.prim s'.prim) ∧
    (x.toNat ≤ 3 → y.toNat = 4 → p = s.prim.a.toNat * s.prim.g8Nat x →
      ∃ s', exec (.mul8 x y) s = .next s' ∧ WroteR16 0 (p % 65536) s s' ∧
        s'.prim.f.getLsbD 1 = decide (65535 < p) ∧ FlagBitsKept 0xFD s.prim s'.prim) ∧
    (3 < x.toNat ∨ 4 < y.toNat → exec (.mul8 x y) s = .next (s.raiseInterrupt 0x00))

/-! ## Moves, loads, stores: `42_moves_loads_stores.md` -/

/-- Rules R181 and R182: MOV8 and MOV16; no flag. The layout of the operand byte is the spec's decision
D1 (log entry 13); that a bad operand does nothing but raise is its decision D3 (log entry 14). -/
def Obligations.MoveResult : Prop :=
  ∀ (s : State) (x y : Code),
    (EncodedAs (.mov8 x y) [0x20, 16 * x.toNat + y.toNat] ∧
      EncodedAs (.mov16 x y) [0x21, 16 * x.toNat + y.toNat]) ∧
    (x.toNat ≤ 3 → y.toNat ≤ 3 →
      (∃ s', exec (.mov8 x y) s = .next s' ∧ WroteG8 x (s.prim.g8Nat y) s s' ∧
        s'.prim.f = s.prim.f) ∧
      (∃ s', exec (.mov16 x y) s = .next s' ∧ WroteR16 x (s.prim.r16Nat y) s s' ∧
        s'.prim.f = s.prim.f)) ∧
    (3 < x.toNat ∨ 3 < y.toNat →
      exec (.mov8 x y) s = .next (s.raiseInterrupt 0x00) ∧
      exec (.mov16 x y) s = .next (s.raiseInterrupt 0x00))

/-- Rule R183: MOVX; tags 1 and 2 write A-low, tag 3 writes A, any other tag faults; no flag. The
whole-byte tag and the ip read are the spec's decision D12 (log entry 23). That a bad tag does nothing
but raise is the spec's decision D3 (log entry 14). -/
def Obligations.MovxResult : Prop :=
  ∀ (s : State) (tag : Byte),
    EncodedAs (.movx tag) [0x22, tag.toNat] ∧
    (tag.toNat = 1 → ∃ s', exec (.movx tag) s = .next s' ∧ WroteG8 0 s.prim.f.toNat s s' ∧
      s'.prim.f = s.prim.f) ∧
    (tag.toNat = 2 → ∃ s', exec (.movx tag) s = .next s' ∧ WroteG8 0 s.ic.toNat s s' ∧
      s'.prim.f = s.prim.f) ∧
    (tag.toNat = 3 → ∃ s', exec (.movx tag) s = .next s' ∧ WroteR16 0 s.ip.toNat s s' ∧
      s'.prim.f = s.prim.f) ∧
    (tag.toNat = 0 ∨ 4 ≤ tag.toNat → exec (.movx tag) s = .next (s.raiseInterrupt 0x00))

/-- Rules R184, R185, R188, R189, R191 and R192: the four loads; the word loads are little-endian and
wrap; no flag. The byte order of the two word loads is the spec's decision D7, their wrap D8 (log entry
15). -/
def Obligations.LoadResult : Prop :=
  ∀ (s : State) (d : Byte),
    (EncodedAs (.ldbBp d) [0x23, d.toNat] ∧ EncodedAs .ldbC [0x24] ∧
      EncodedAs (.ldwBp d) [0x29, d.toNat] ∧ EncodedAs .ldwC [0x2A]) ∧
    (s.eaBp d).toNat = s.eaBpNat d ∧
    (∃ s', exec (.ldbBp d) s = .next s' ∧ WroteG8 0 (s.readByte (s.eaBp d)).toNat s s' ∧
      s'.prim.f = s.prim.f) ∧
    (∃ s', exec .ldbC s = .next s' ∧ WroteG8 0 (s.readByte s.prim.c).toNat s s' ∧
      s'.prim.f = s.prim.f) ∧
    (∃ s', exec (.ldwBp d) s = .next s' ∧ WroteR16 0 (s.wordNat (s.eaBp d)) s s' ∧
      s'.prim.f = s.prim.f) ∧
    (∃ s', exec .ldwC s = .next s' ∧ WroteR16 0 (s.wordNat s.prim.c) s s' ∧ s'.prim.f = s.prim.f)

/-- Rules R186, R187, R188, R189, R195 and R196: the four stores; the word stores put A-low at the
address and A-high at the next, wrapping; no register and no other byte changes. The byte order of the
two word stores is the spec's decision D7, their wrap D8 (log entry 15). -/
def Obligations.StoreResult : Prop :=
  ∀ (s : State) (d : Byte),
    (EncodedAs (.stbBp d) [0x25, d.toNat] ∧ EncodedAs .stbC [0x26] ∧
      EncodedAs (.stwBp d) [0x2D, d.toNat] ∧ EncodedAs .stwC [0x2E]) ∧
    (s.eaBp d).toNat = s.eaBpNat d ∧
    (∃ s', exec (.stbBp d) s = .next s' ∧ BytesOnly [s.eaBp d] s s' ∧
      (s'.readByte (s.eaBp d)).toNat = s.prim.a.toNat % 256) ∧
    (∃ s', exec .stbC s = .next s' ∧ BytesOnly [s.prim.c] s s' ∧
      (s'.readByte s.prim.c).toNat = s.prim.a.toNat % 256) ∧
    (∃ s', exec (.stwBp d) s = .next s' ∧ BytesOnly [s.eaBp d, s.eaBp d + 1] s s' ∧
      (s'.readByte (s.eaBp d)).toNat = s.prim.a.toNat % 256 ∧
      (s'.readByte (s.eaBp d + 1)).toNat = s.prim.a.toNat / 256) ∧
    (∃ s', exec .stwC s = .next s' ∧ BytesOnly [s.prim.c, s.prim.c + 1] s s' ∧
      (s'.readByte s.prim.c).toNat = s.prim.a.toNat % 256 ∧
      (s'.readByte (s.prim.c + 1)).toNat = s.prim.a.toNat / 256)

/-- Rule R190: SWP exchanges the two banks whole and touches nothing else; it is its own inverse. -/
def Obligations.SwapResult : Prop :=
  EncodedAs .swp [0x28] ∧
  ∀ s : State, ∃ s', exec .swp s = .next s' ∧ s'.prim = s.shad ∧ s'.shad = s.prim ∧
    s' = { s with prim := s'.prim, shad := s'.shad } ∧ SameBytes s s' ∧ exec .swp s' = .next s

/-- Rules R193 and R194: RDT copies `t` to A-low, WRT copies A-low to `t`; no flag. -/
def Obligations.TableRegisterResult : Prop :=
  (EncodedAs .rdt [0x2B] ∧ EncodedAs .wrt [0x2C]) ∧
  ∀ s : State,
    (∃ s', exec .rdt s = .next s' ∧ WroteG8 0 s.t.toNat s s' ∧ s'.prim.f = s.prim.f) ∧
    (∃ s', exec .wrt s = .next s' ∧ s'.t.toNat = s.prim.a.toNat % 256 ∧ s' = { s with t := s'.t } ∧
      SameBytes s s')

/-! ## Control transfer: `43_control_transfer.md` -/

/-- Rules R211 to R217: the jumps and the calls write `ip` and nothing else; one not taken changes
nothing, `ip` standing after its third byte. The byte order of the immediate of CALL is the spec's
decision D7 (log entry 15); that a jump not taken has fetched its operand bytes is its decision D25 (log
entry 14). -/
def Obligations.JumpResult : Prop :=
  ∀ (s : State) (w : Word) (low high : Nat), low = w.toNat % 256 → high = w.toNat / 256 →
    (EncodedAs (.jmp w) [0x40, low, high] ∧ EncodedAs (.jz w) [0x41, low, high] ∧
      EncodedAs (.jc w) [0x42, low, high] ∧ EncodedAs (.jnz w) [0x43, low, high] ∧
      EncodedAs (.jnc w) [0x44, low, high] ∧ EncodedAs (.call w) [0x48, low, high] ∧
      EncodedAs .calla [0x49]) ∧
    exec (.jmp w) s = .next { s with ip := w } ∧
    exec (.jz w) s = .next { s with ip := if s.prim.f.getLsbD 0 = true then w else s.ip } ∧
    exec (.jc w) s = .next { s with ip := if s.prim.f.getLsbD 1 = true then w else s.ip } ∧
    exec (.jnz w) s = .next { s with ip := if s.prim.f.getLsbD 0 = false then w else s.ip } ∧
    exec (.jnc w) s = .next { s with ip := if s.prim.f.getLsbD 1 = false then w else s.ip } ∧
    exec (.call w) s = .next { s with ip := w } ∧
    exec .calla s = .next { s with ip := s.prim.a }

/-- Rule R219: RET takes `ip` from the word at SP and adds 2 to SP; nothing else changes. The byte order
is the spec's decision D7 (log entry 15). -/
def Obligations.RetResult : Prop :=
  EncodedAs .ret [0x4B] ∧
  ∀ s : State, ∃ s', exec .ret s = .next s' ∧ s'.ip.toNat = s.wordNat s.prim.sp ∧
    s'.prim.sp.toNat = (s.prim.sp.toNat + 2) % 65536 ∧
    s' = { s with ip := s'.ip, prim := { s.prim with sp := s'.prim.sp } } ∧ SameBytes s s'

/-! ## System and I/O: `44_system_io.md` -/

/-- Rules R230 to R233 and R238: EI, DI, ECI, DCI and HLT each write their one bit and nothing else. -/
def Obligations.ModeBitResult : Prop :=
  (EncodedAs .ei [0x50] ∧ EncodedAs .di [0x51] ∧ EncodedAs .eci [0x52] ∧ EncodedAs .dci [0x53] ∧
    EncodedAs .hlt [0x70]) ∧
  ∀ s : State,
    exec .ei s = .next { s with interruptHandling := true } ∧
    exec .di s = .next { s with interruptHandling := false } ∧
    exec .eci s = .next { s with clockInterrupt := true } ∧
    exec .dci s = .next { s with clockInterrupt := false } ∧
    exec .hlt s = .next { s with powerOn := false }

/-- Rule R236 and `20_memory.md` rules R76 and R78: IN takes the next byte of INPUT into A-low. With
INPUT ended it takes the byte the parameter INPUT_EXHAUSTED gives, or, the default, is stuck. What
happens at the end of the input is the parameter of the spec's decision D18 (log entry 7). -/
def Obligations.InResult : Prop :=
  EncodedAs .inp [0x60] ∧
  ∀ s : State,
    (∀ (b : Byte) (rest : List Byte), s.input = b :: rest →
      ∃ s', exec .inp s = .next s' ∧ s'.input = rest ∧ s'.prim.g8Nat 0 = b.toNat ∧
        G8Frame 0 s.prim s'.prim ∧ s'.prim.f = s.prim.f ∧
        s' = { s with prim := s'.prim, input := s'.input } ∧ SameBytes s s') ∧
    (∀ b : Byte, s.input = [] → s.inputExhausted = .value b →
      ∃ s', exec .inp s = .next s' ∧ WroteG8 0 b.toNat s s' ∧ s'.prim.f = s.prim.f) ∧
    (s.input = [] → s.inputExhausted = .stuck → exec .inp s = .fault .inputBlocked)

/-- Rule R237 and `20_memory.md` rules R77 and R78: OUT appends A-low to OUTPUT; with an endpoint that
never accepts it is stuck. The endpoint is the model's field (log entry 8). -/
def Obligations.OutResult : Prop :=
  EncodedAs .out [0x61] ∧
  ∀ s : State,
    (s.CanOutput → ∃ (s' : State) (v : Byte), exec .out s = .next s' ∧
      v.toNat = s.prim.a.toNat % 256 ∧ s'.output = s.output ++ [v] ∧
      (s.sink = .always → s'.sink = .always) ∧ (∀ n, s.sink = .accepts (n + 1) → s'.sink = .accepts n) ∧
      s' = { s with output := s'.output, sink := s'.sink } ∧ SameBytes s s') ∧
    (¬ s.CanOutput → exec .out s = .fault .outputBlocked)

/-! ## Nibble operations: `45_nibble_ops.md` -/

/-- Rules R251 and R252: MVI8 and MVI16; no flag. That F is kept is the spec's decision D10 (log entry
16). That a bad selector does nothing but raise is the spec's decision D3 (log entry 14). -/
def Obligations.MoveImmediateResult : Prop :=
  ∀ (s : State) (sel : Code) (b : Byte) (w : Word),
    (EncodedAs (.mvi8 sel b) [0x80 + sel.toNat, b.toNat] ∧
      EncodedAs (.mvi16 sel w) [0x90 + sel.toNat, w.toNat % 256, w.toNat / 256]) ∧
    (sel.toNat ≤ 3 →
      (∃ s', exec (.mvi8 sel b) s = .next s' ∧ WroteG8 sel b.toNat s s' ∧ s'.prim.f = s.prim.f) ∧
      (∃ s', exec (.mvi16 sel w) s = .next s' ∧ WroteR16 sel w.toNat s s' ∧ s'.prim.f = s.prim.f)) ∧
    (3 < sel.toNat →
      exec (.mvi8 sel b) s = .next (s.raiseInterrupt 0x00) ∧
      exec (.mvi16 sel w) s = .next (s.raiseInterrupt 0x00))

/-- Rules R253 and R254: PUSH8 and PUSH16. SP goes down, modulo 65536; the value, read before SP
changes, is stored at the new SP, a word with its low byte there and its high byte one above; nothing
else changes. That PUSH16 reads SP before it changes is the spec's decision D9 (log entry 15); that a
bad selector does nothing but raise is its decision D3 (log entry 14). -/
def Obligations.PushResult : Prop :=
  ∀ (s : State) (sel : Code),
    (EncodedAs (.push8 sel) [0xA0 + sel.toNat] ∧ EncodedAs (.push16 sel) [0xB0 + sel.toNat]) ∧
    (sel.toNat ≤ 3 →
      (∃ s', exec (.push8 sel) s = .next s' ∧ s'.prim.sp.toNat = (s.prim.sp.toNat + 65535) % 65536 ∧
        (s'.readByte s'.prim.sp).toNat = s.prim.g8Nat sel ∧
        s' = { s with prim := { s.prim with sp := s'.prim.sp }, mem := s'.mem } ∧
        SameBytesBut [s.prim.sp - 1] s s') ∧
      (∃ s', exec (.push16 sel) s = .next s' ∧ s'.prim.sp.toNat = (s.prim.sp.toNat + 65534) % 65536 ∧
        (s'.readByte s'.prim.sp).toNat = s.prim.r16Nat sel % 256 ∧
        (s'.readByte (s'.prim.sp + 1)).toNat = s.prim.r16Nat sel / 256 ∧
        s' = { s with prim := { s.prim with sp := s'.prim.sp }, mem := s'.mem } ∧
        SameBytesBut [s.prim.sp - 2, s.prim.sp - 1] s s')) ∧
    (3 < sel.toNat →
      exec (.push8 sel) s = .next (s.raiseInterrupt 0x00) ∧
      exec (.push16 sel) s = .next (s.raiseInterrupt 0x00))

/-- Rules R255 and R256: POP8 and POP16. The value at SP goes to the destination, written last, and SP
goes up, modulo 65536; with SP the destination, the value is the final SP. No flag and no byte of memory
changes. The byte order and the last write of POP16 are the spec's decisions D7 and D9 (log entry 15);
that a bad selector does nothing but raise is its decision D3 (log entry 14). -/
def Obligations.PopResult : Prop :=
  ∀ (s : State) (sel : Code),
    (EncodedAs (.pop8 sel) [0xC0 + sel.toNat] ∧ EncodedAs (.pop16 sel) [0xD0 + sel.toNat]) ∧
    (sel.toNat ≤ 3 →
      (∃ (s' : State) (sp : Word), exec (.pop8 sel) s = .next s' ∧
        sp.toNat = (s.prim.sp.toNat + 1) % 65536 ∧
        s'.prim.g8Nat sel = (s.readByte s.prim.sp).toNat ∧
        G8Frame sel { s.prim with sp := sp } s'.prim ∧ s'.prim.f = s.prim.f ∧ PrimOnly s s') ∧
      (∃ (s' : State) (sp : Word), exec (.pop16 sel) s = .next s' ∧
        sp.toNat = (s.prim.sp.toNat + 2) % 65536 ∧
        s'.prim.r16Nat sel = s.wordNat s.prim.sp ∧
        R16Frame sel { s.prim with sp := sp } s'.prim ∧ s'.prim.f = s.prim.f ∧ PrimOnly s s')) ∧
    (3 < sel.toNat →
      exec (.pop8 sel) s = .next (s.raiseInterrupt 0x00) ∧
      exec (.pop16 sel) s = .next (s.raiseInterrupt 0x00))

/-- Rule R256: PUSH16 and then POP16 into the same selector restores the register and SP, SP itself
included. That it holds for SP itself rests on the spec's decision D9 (log entry 15). -/
def Obligations.PushThenPopRestores : Prop :=
  ∀ (s : State) (sel : Code), sel.toNat ≤ 3 →
    ∃ s1 s2, exec (.push16 sel) s = .next s1 ∧ exec (.pop16 sel) s1 = .next s2 ∧ s2.prim = s.prim

/-- Rules R257 and R258: ADI8 and ADI16. The byte order of the immediate of ADI16 is the spec's decision
D7 (log entry 15); that a bad selector does nothing but raise is its decision D3 (log entry 14). -/
def Obligations.AddImmediateResult : Prop :=
  ∀ (s : State) (sel : Code) (b : Byte) (w : Word),
    (EncodedAs (.adi8 sel b) [0xE0 + sel.toNat, b.toNat] ∧
      EncodedAs (.adi16 sel w) [0xF0 + sel.toNat, w.toNat % 256, w.toNat / 256]) ∧
    (sel.toNat ≤ 3 →
      (∃ (s' : State) (sum : Nat), sum = s.prim.g8Nat sel + b.toNat ∧ exec (.adi8 sel b) s = .next s' ∧
        WroteG8 sel (sum % 256) s s' ∧ s'.prim.f.getLsbD 1 = decide (255 < sum) ∧
        s'.prim.f.getLsbD 0 = decide (sum % 256 = 0) ∧ FlagBitsKept 0xFC s.prim s'.prim) ∧
      (∃ (s' : State) (sum : Nat), sum = s.prim.r16Nat sel + w.toNat ∧ exec (.adi16 sel w) s = .next s' ∧
        WroteR16 sel (sum % 65536) s s' ∧ s'.prim.f.getLsbD 1 = decide (65535 < sum) ∧
        s'.prim.f.getLsbD 0 = decide (sum % 65536 = 0) ∧ FlagBitsKept 0xFC s.prim s'.prim)) ∧
    (3 < sel.toNat →
      exec (.adi8 sel b) s = .next (s.raiseInterrupt 0x00) ∧
      exec (.adi16 sel w) s = .next (s.raiseInterrupt 0x00))
end

