-- ==== Sys2Proof/Laws/Memory.lean ====
section
/-!
SUPPORT. The laws of memory: a read after a write, at the same address and at another, and the canonical
form, which every memory operation keeps.
-/
namespace Sys2Proof.Machine

/-! ## Read after write: `20_memory.md` rule R60 -/

@[simp] theorem Memory.read_erase_same (m : Memory) (a : Nat) :
    Memory.read (Memory.erase m a) a = unlistedByte := by
  induction m with
  | nil => rfl
  | cons c rest ih =>
    obtain ⟨a', v⟩ := c
    by_cases h : a' = a <;> simp [Memory.erase, Memory.read, h, ih]

theorem Memory.read_erase_other (m : Memory) {a b : Nat} (h : b ≠ a) :
    Memory.read (Memory.erase m a) b = Memory.read m b := by
  induction m with
  | nil => rfl
  | cons c rest ih =>
    obtain ⟨a', v⟩ := c
    by_cases ha : a' = a
    · subst ha
      simp [Memory.erase, Memory.read, ih, Ne.symm h]
    · simp [Memory.erase, Memory.read, ha, ih]

@[simp] theorem Memory.read_put_same (m : Memory) (a : Nat) (v : Byte) :
    Memory.read (Memory.put m a v) a = v := by
  induction m with
  | nil => simp [Memory.put, Memory.read]
  | cons c rest ih =>
    obtain ⟨a', v'⟩ := c
    by_cases h1 : a < a'
    · simp [Memory.put, Memory.read, h1]
    · by_cases h2 : a = a'
      · simp [Memory.put, Memory.read, h2]
      · simp [Memory.put, Memory.read, h1, h2, Ne.symm h2, ih]

theorem Memory.read_put_other (m : Memory) {a b : Nat} (v : Byte) (h : b ≠ a) :
    Memory.read (Memory.put m a v) b = Memory.read m b := by
  induction m with
  | nil => simp [Memory.put, Memory.read, Ne.symm h]
  | cons c rest ih =>
    obtain ⟨a', v'⟩ := c
    by_cases h1 : a < a'
    · simp [Memory.put, Memory.read, h1, Ne.symm h]
    · by_cases h2 : a = a'
      · subst h2
        simp [Memory.put, Memory.read, Ne.symm h]
      · simp [Memory.put, Memory.read, h1, h2, ih]

/-- A read of the written address gives the written byte. -/
@[simp] theorem Memory.read_write_same (m : Memory) (a : Nat) (v : Byte) :
    Memory.read (Memory.write m a v) a = v := by
  by_cases h : v = unlistedByte <;> simp [Memory.write, h]

/-- A write changes no other byte. -/
theorem Memory.read_write_other (m : Memory) {a b : Nat} (v : Byte) (h : b ≠ a) :
    Memory.read (Memory.write m a v) b = Memory.read m b := by
  by_cases hv : v = unlistedByte
  · simp [Memory.write, hv, Memory.read_erase_other m h]
  · simp [Memory.write, hv, Memory.read_put_other m v h]

/-! ## The canonical form -/

theorem Memory.wfFrom_cons (low a : Nat) (v : Byte) (rest : Memory) :
    Memory.wfFrom low ((a, v) :: rest) = true ↔
      low ≤ a ∧ a < memorySize ∧ v ≠ unlistedByte ∧ Memory.wfFrom (a + 1) rest = true := by
  simp [Memory.wfFrom, and_assoc]

theorem Memory.wfFrom_mono (m : Memory) {low high : Nat} (h : low ≤ high)
    (hm : Memory.wfFrom high m = true) : Memory.wfFrom low m = true := by
  cases m with
  | nil => rfl
  | cons c rest =>
    obtain ⟨a, v⟩ := c
    rw [Memory.wfFrom_cons] at hm ⊢
    exact ⟨le_trans h hm.1, hm.2⟩

theorem Memory.wfFrom_erase (m : Memory) (low a : Nat) (hm : Memory.wfFrom low m = true) :
    Memory.wfFrom low (Memory.erase m a) = true := by
  induction m generalizing low with
  | nil => rfl
  | cons c rest ih =>
    obtain ⟨a', v⟩ := c
    rw [Memory.wfFrom_cons] at hm
    by_cases h : a' = a
    · simp only [Memory.erase, h, if_true]
      exact Memory.wfFrom_mono _ (by omega) (ih _ (h ▸ hm.2.2.2))
    · simp only [Memory.erase, h, if_false, Memory.wfFrom_cons]
      exact ⟨hm.1, hm.2.1, hm.2.2.1, ih _ hm.2.2.2⟩

theorem Memory.wfFrom_put (m : Memory) (low a : Nat) (v : Byte) (hm : Memory.wfFrom low m = true)
    (hl : low ≤ a) (ha : a < memorySize) (hv : v ≠ unlistedByte) :
    Memory.wfFrom low (Memory.put m a v) = true := by
  induction m generalizing low with
  | nil => simp [Memory.put, Memory.wfFrom, hl, ha, hv]
  | cons c rest ih =>
    obtain ⟨a', v'⟩ := c
    rw [Memory.wfFrom_cons] at hm
    by_cases h1 : a < a'
    · simp only [Memory.put, h1, if_true, Memory.wfFrom_cons]
      exact ⟨hl, ha, hv, h1, hm.2⟩
    · by_cases h2 : a = a'
      · subst h2
        simp only [Memory.put, lt_irrefl, if_false, if_true, Memory.wfFrom_cons]
        exact ⟨hl, ha, hv, hm.2.2.2⟩
      · simp only [Memory.put, h1, h2, if_false, Memory.wfFrom_cons]
        exact ⟨hm.1, hm.2.1, hm.2.2.1, ih _ hm.2.2.2 (by omega)⟩

/-- A write inside the address space keeps the canonical form. -/
theorem Memory.wf_write (m : Memory) (a : Nat) (v : Byte) (hm : Memory.wf m = true)
    (ha : a < memorySize) : Memory.wf (Memory.write m a v) = true := by
  unfold Memory.write
  split
  · exact Memory.wfFrom_erase m 0 a hm
  · exact Memory.wfFrom_put m 0 a v hm (Nat.zero_le _) ha ‹_›

/-- Loading an image that fits keeps the canonical form. -/
theorem Memory.wf_load (image : List Byte) (m : Memory) (a : Nat) (hm : Memory.wf m = true)
    (h : a + image.length ≤ memorySize) : Memory.wf (Memory.load m a image) = true := by
  induction image generalizing m a with
  | nil => exact hm
  | cons b rest ih =>
    simp only [List.length_cons] at h
    exact ih _ _ (Memory.wf_write m a b hm (by omega)) (by omega)

/-- Loading an image leaves the bytes below it alone. -/
theorem Memory.read_load_below (image : List Byte) (m : Memory) {a b : Nat} (h : b < a) :
    Memory.read (Memory.load m a image) b = Memory.read m b := by
  induction image generalizing m a with
  | nil => rfl
  | cons c rest ih =>
    exact (ih _ (by omega)).trans (Memory.read_write_other m c (by omega))

/-- A loaded image stands at ascending addresses; memory from its end on is as before. -/
theorem Memory.read_load (image : List Byte) (m : Memory) (a k : Nat) :
    Memory.read (Memory.load m a image) (a + k) = image.getD k (Memory.read m (a + k)) := by
  induction image generalizing m a k with
  | nil => rfl
  | cons c rest ih =>
    cases k with
    | zero => simpa [Memory.load] using Memory.read_load_below rest (Memory.write m a c) (Nat.lt_succ_self a)
    | succ k =>
      have h := ih (Memory.write m a c) (a + 1) k
      rw [Memory.read_write_other m c (by omega : a + 1 + k ≠ a)] at h
      rw [show a + (k + 1) = a + 1 + k by omega]
      simpa [Memory.load] using h

/-! ## The machine's accesses: `20_memory.md` rules R62 and R64 -/

/-- `MemRead(addr, 1)` after `MemWrite(addr, 1, v)`. -/
@[simp] theorem State.readByte_writeByte_same (s : State) (a : Word) (v : Byte) :
    (s.writeByte a v).readByte a = v := by
  simp [State.readByte, State.writeByte]

/-- `MemWrite(addr, 1, v)` changes no other byte. -/
theorem State.readByte_writeByte_other (s : State) {a b : Word} (v : Byte) (h : b ≠ a) :
    (s.writeByte a v).readByte b = s.readByte b := by
  have hn : b.toNat ≠ a.toNat := fun e => h (BitVec.eq_of_toNat_eq e)
  simpa [State.readByte, State.writeByte] using Memory.read_write_other s.mem v hn

/-- The two bytes of a 16-bit access never coincide. -/
theorem word_succ_ne (a : Word) : a + 1#16 ≠ a := by
  bv_omega

/-- The low byte of a stored word is at the address itself. -/
@[simp] theorem State.readByte_writeWord_low (s : State) (a v : Word) :
    (s.writeWord a v).readByte a = lo v := by
  unfold State.writeWord
  rw [State.readByte_writeByte_other _ _ (word_succ_ne a).symm, State.readByte_writeByte_same]

/-- The high byte of a stored word is at the next address, modulo 65536. -/
@[simp] theorem State.readByte_writeWord_high (s : State) (a v : Word) :
    (s.writeWord a v).readByte (a + 1#16) = hi v := by
  unfold State.writeWord
  rw [State.readByte_writeByte_same]

/-- `MemWrite(addr, 2, v)` changes no byte but those two. -/
theorem State.readByte_writeWord_other (s : State) {a b : Word} (v : Word) (h0 : b ≠ a)
    (h1 : b ≠ a + 1#16) : (s.writeWord a v).readByte b = s.readByte b := by
  unfold State.writeWord
  rw [State.readByte_writeByte_other _ _ h1, State.readByte_writeByte_other _ _ h0]

/-- A word is the join of its halves. -/
@[simp] theorem joinBytes_hi_lo (v : Word) : joinBytes (hi v) (lo v) = v := by
  apply BitVec.eq_of_getLsbD_eq
  intro i hi'
  simp only [joinBytes, hi, lo, BitVec.getLsbD_append, BitVec.getLsbD_extractLsb']
  by_cases h : i < 8
  · simp [h]
  · have h8 : i - 8 < 8 := by omega
    have e : 8 + (i - 8) = i := by omega
    simp [h, h8, e]

/-- `MemRead(addr, 2)` after `MemWrite(addr, 2, v)`. -/
@[simp] theorem State.readWord_writeWord_same (s : State) (a v : Word) :
    (s.writeWord a v).readWord a = v := by
  simp [State.readWord]

/-- Every store of the machine keeps the canonical form. -/
theorem State.wf_writeByte (s : State) (a : Word) (v : Byte) (h : Memory.wf s.mem = true) :
    Memory.wf (s.writeByte a v).mem = true :=
  Memory.wf_write s.mem a.toNat v h a.isLt

theorem State.wf_writeWord (s : State) (a v : Word) (h : Memory.wf s.mem = true) :
    Memory.wf (s.writeWord a v).mem = true :=
  State.wf_writeByte _ _ _ (State.wf_writeByte _ _ _ h)

end Sys2Proof.Machine
end

