-- ==== Sys2Proof/Laws/State.lean ====
section
/-!
SUPPORT. One lemma per field per named update of State, so that no later proof unfolds a record update;
and the same for the two updates of Bank.
-/
namespace Sys2Proof.Machine

/-! ## Bank -/

@[simp] theorem Bank.setHalf_f (b : Bank) (h : Half) (v : Byte) : (b.setHalf h v).f = b.f := by
  cases h <;> rfl

@[simp] theorem Bank.setHalf_sp (b : Bank) (h : Half) (v : Byte) : (b.setHalf h v).sp = b.sp := by
  cases h <;> rfl

@[simp] theorem Bank.setHalf_bp (b : Bank) (h : Half) (v : Byte) : (b.setHalf h v).bp = b.bp := by
  cases h <;> rfl

@[simp] theorem Bank.setReg_f (b : Bank) (r : Reg) (v : Word) : (b.setReg r v).f = b.f := by
  cases r <;> rfl

@[simp] theorem Bank.reg_setReg (b : Bank) (r : Reg) (v : Word) : (b.setReg r v).reg r = v := by
  cases r <;> rfl

theorem Bank.reg_setReg_other (b : Bank) {r q : Reg} (v : Word) (h : q ≠ r) :
    (b.setReg r v).reg q = b.reg q := by
  cases r <;> cases q <;> first | rfl | exact absurd rfl h

/-! ## State -/

@[simp] theorem State.setHalf_shad (s : State) (h : Half) (v : Byte) :
    (s.setHalf h v).shad = s.shad := rfl

@[simp] theorem State.setHalf_ip (s : State) (h : Half) (v : Byte) :
    (s.setHalf h v).ip = s.ip := rfl

@[simp] theorem State.setHalf_ic (s : State) (h : Half) (v : Byte) :
    (s.setHalf h v).ic = s.ic := rfl

@[simp] theorem State.setHalf_t (s : State) (h : Half) (v : Byte) :
    (s.setHalf h v).t = s.t := rfl

@[simp] theorem State.setHalf_level (s : State) (h : Half) (v : Byte) :
    (s.setHalf h v).level = s.level := rfl

@[simp] theorem State.setHalf_interruptHandling (s : State) (h : Half) (v : Byte) :
    (s.setHalf h v).interruptHandling = s.interruptHandling := rfl

@[simp] theorem State.setHalf_clockInterrupt (s : State) (h : Half) (v : Byte) :
    (s.setHalf h v).clockInterrupt = s.clockInterrupt := rfl

@[simp] theorem State.setHalf_powerOn (s : State) (h : Half) (v : Byte) :
    (s.setHalf h v).powerOn = s.powerOn := rfl

@[simp] theorem State.setHalf_mem (s : State) (h : Half) (v : Byte) :
    (s.setHalf h v).mem = s.mem := rfl

@[simp] theorem State.setHalf_period (s : State) (h : Half) (v : Byte) :
    (s.setHalf h v).period = s.period := rfl

@[simp] theorem State.setHalf_multiplier (s : State) (h : Half) (v : Byte) :
    (s.setHalf h v).multiplier = s.multiplier := rfl

@[simp] theorem State.setHalf_stage (s : State) (h : Half) (v : Byte) :
    (s.setHalf h v).stage = s.stage := rfl

@[simp] theorem State.setHalf_nextTick (s : State) (h : Half) (v : Byte) :
    (s.setHalf h v).nextTick = s.nextTick := rfl

@[simp] theorem State.setHalf_now (s : State) (h : Half) (v : Byte) :
    (s.setHalf h v).now = s.now := rfl

@[simp] theorem State.setHalf_gaps (s : State) (h : Half) (v : Byte) :
    (s.setHalf h v).gaps = s.gaps := rfl

@[simp] theorem State.setHalf_input (s : State) (h : Half) (v : Byte) :
    (s.setHalf h v).input = s.input := rfl

@[simp] theorem State.setHalf_output (s : State) (h : Half) (v : Byte) :
    (s.setHalf h v).output = s.output := rfl

@[simp] theorem State.setHalf_sink (s : State) (h : Half) (v : Byte) :
    (s.setHalf h v).sink = s.sink := rfl

@[simp] theorem State.setHalf_inputExhausted (s : State) (h : Half) (v : Byte) :
    (s.setHalf h v).inputExhausted = s.inputExhausted := rfl

@[simp] theorem State.setHalf_rtiRestoresIp (s : State) (h : Half) (v : Byte) :
    (s.setHalf h v).rtiRestoresIp = s.rtiRestoresIp := rfl

@[simp] theorem State.setReg_shad (s : State) (r : Reg) (v : Word) :
    (s.setReg r v).shad = s.shad := rfl

@[simp] theorem State.setReg_ip (s : State) (r : Reg) (v : Word) :
    (s.setReg r v).ip = s.ip := rfl

@[simp] theorem State.setReg_ic (s : State) (r : Reg) (v : Word) :
    (s.setReg r v).ic = s.ic := rfl

@[simp] theorem State.setReg_t (s : State) (r : Reg) (v : Word) :
    (s.setReg r v).t = s.t := rfl

@[simp] theorem State.setReg_level (s : State) (r : Reg) (v : Word) :
    (s.setReg r v).level = s.level := rfl

@[simp] theorem State.setReg_interruptHandling (s : State) (r : Reg) (v : Word) :
    (s.setReg r v).interruptHandling = s.interruptHandling := rfl

@[simp] theorem State.setReg_clockInterrupt (s : State) (r : Reg) (v : Word) :
    (s.setReg r v).clockInterrupt = s.clockInterrupt := rfl

@[simp] theorem State.setReg_powerOn (s : State) (r : Reg) (v : Word) :
    (s.setReg r v).powerOn = s.powerOn := rfl

@[simp] theorem State.setReg_mem (s : State) (r : Reg) (v : Word) :
    (s.setReg r v).mem = s.mem := rfl

@[simp] theorem State.setReg_period (s : State) (r : Reg) (v : Word) :
    (s.setReg r v).period = s.period := rfl

@[simp] theorem State.setReg_multiplier (s : State) (r : Reg) (v : Word) :
    (s.setReg r v).multiplier = s.multiplier := rfl

@[simp] theorem State.setReg_stage (s : State) (r : Reg) (v : Word) :
    (s.setReg r v).stage = s.stage := rfl

@[simp] theorem State.setReg_nextTick (s : State) (r : Reg) (v : Word) :
    (s.setReg r v).nextTick = s.nextTick := rfl

@[simp] theorem State.setReg_now (s : State) (r : Reg) (v : Word) :
    (s.setReg r v).now = s.now := rfl

@[simp] theorem State.setReg_gaps (s : State) (r : Reg) (v : Word) :
    (s.setReg r v).gaps = s.gaps := rfl

@[simp] theorem State.setReg_input (s : State) (r : Reg) (v : Word) :
    (s.setReg r v).input = s.input := rfl

@[simp] theorem State.setReg_output (s : State) (r : Reg) (v : Word) :
    (s.setReg r v).output = s.output := rfl

@[simp] theorem State.setReg_sink (s : State) (r : Reg) (v : Word) :
    (s.setReg r v).sink = s.sink := rfl

@[simp] theorem State.setReg_inputExhausted (s : State) (r : Reg) (v : Word) :
    (s.setReg r v).inputExhausted = s.inputExhausted := rfl

@[simp] theorem State.setReg_rtiRestoresIp (s : State) (r : Reg) (v : Word) :
    (s.setReg r v).rtiRestoresIp = s.rtiRestoresIp := rfl

@[simp] theorem State.setZ_shad (s : State) (b : Bool) :
    (s.setZ b).shad = s.shad := rfl

@[simp] theorem State.setZ_ip (s : State) (b : Bool) :
    (s.setZ b).ip = s.ip := rfl

@[simp] theorem State.setZ_ic (s : State) (b : Bool) :
    (s.setZ b).ic = s.ic := rfl

@[simp] theorem State.setZ_t (s : State) (b : Bool) :
    (s.setZ b).t = s.t := rfl

@[simp] theorem State.setZ_level (s : State) (b : Bool) :
    (s.setZ b).level = s.level := rfl

@[simp] theorem State.setZ_interruptHandling (s : State) (b : Bool) :
    (s.setZ b).interruptHandling = s.interruptHandling := rfl

@[simp] theorem State.setZ_clockInterrupt (s : State) (b : Bool) :
    (s.setZ b).clockInterrupt = s.clockInterrupt := rfl

@[simp] theorem State.setZ_powerOn (s : State) (b : Bool) :
    (s.setZ b).powerOn = s.powerOn := rfl

@[simp] theorem State.setZ_mem (s : State) (b : Bool) :
    (s.setZ b).mem = s.mem := rfl

@[simp] theorem State.setZ_period (s : State) (b : Bool) :
    (s.setZ b).period = s.period := rfl

@[simp] theorem State.setZ_multiplier (s : State) (b : Bool) :
    (s.setZ b).multiplier = s.multiplier := rfl

@[simp] theorem State.setZ_stage (s : State) (b : Bool) :
    (s.setZ b).stage = s.stage := rfl

@[simp] theorem State.setZ_nextTick (s : State) (b : Bool) :
    (s.setZ b).nextTick = s.nextTick := rfl

@[simp] theorem State.setZ_now (s : State) (b : Bool) :
    (s.setZ b).now = s.now := rfl

@[simp] theorem State.setZ_gaps (s : State) (b : Bool) :
    (s.setZ b).gaps = s.gaps := rfl

@[simp] theorem State.setZ_input (s : State) (b : Bool) :
    (s.setZ b).input = s.input := rfl

@[simp] theorem State.setZ_output (s : State) (b : Bool) :
    (s.setZ b).output = s.output := rfl

@[simp] theorem State.setZ_sink (s : State) (b : Bool) :
    (s.setZ b).sink = s.sink := rfl

@[simp] theorem State.setZ_inputExhausted (s : State) (b : Bool) :
    (s.setZ b).inputExhausted = s.inputExhausted := rfl

@[simp] theorem State.setZ_rtiRestoresIp (s : State) (b : Bool) :
    (s.setZ b).rtiRestoresIp = s.rtiRestoresIp := rfl

@[simp] theorem State.setCY_shad (s : State) (b : Bool) :
    (s.setCY b).shad = s.shad := rfl

@[simp] theorem State.setCY_ip (s : State) (b : Bool) :
    (s.setCY b).ip = s.ip := rfl

@[simp] theorem State.setCY_ic (s : State) (b : Bool) :
    (s.setCY b).ic = s.ic := rfl

@[simp] theorem State.setCY_t (s : State) (b : Bool) :
    (s.setCY b).t = s.t := rfl

@[simp] theorem State.setCY_level (s : State) (b : Bool) :
    (s.setCY b).level = s.level := rfl

@[simp] theorem State.setCY_interruptHandling (s : State) (b : Bool) :
    (s.setCY b).interruptHandling = s.interruptHandling := rfl

@[simp] theorem State.setCY_clockInterrupt (s : State) (b : Bool) :
    (s.setCY b).clockInterrupt = s.clockInterrupt := rfl

@[simp] theorem State.setCY_powerOn (s : State) (b : Bool) :
    (s.setCY b).powerOn = s.powerOn := rfl

@[simp] theorem State.setCY_mem (s : State) (b : Bool) :
    (s.setCY b).mem = s.mem := rfl

@[simp] theorem State.setCY_period (s : State) (b : Bool) :
    (s.setCY b).period = s.period := rfl

@[simp] theorem State.setCY_multiplier (s : State) (b : Bool) :
    (s.setCY b).multiplier = s.multiplier := rfl

@[simp] theorem State.setCY_stage (s : State) (b : Bool) :
    (s.setCY b).stage = s.stage := rfl

@[simp] theorem State.setCY_nextTick (s : State) (b : Bool) :
    (s.setCY b).nextTick = s.nextTick := rfl

@[simp] theorem State.setCY_now (s : State) (b : Bool) :
    (s.setCY b).now = s.now := rfl

@[simp] theorem State.setCY_gaps (s : State) (b : Bool) :
    (s.setCY b).gaps = s.gaps := rfl

@[simp] theorem State.setCY_input (s : State) (b : Bool) :
    (s.setCY b).input = s.input := rfl

@[simp] theorem State.setCY_output (s : State) (b : Bool) :
    (s.setCY b).output = s.output := rfl

@[simp] theorem State.setCY_sink (s : State) (b : Bool) :
    (s.setCY b).sink = s.sink := rfl

@[simp] theorem State.setCY_inputExhausted (s : State) (b : Bool) :
    (s.setCY b).inputExhausted = s.inputExhausted := rfl

@[simp] theorem State.setCY_rtiRestoresIp (s : State) (b : Bool) :
    (s.setCY b).rtiRestoresIp = s.rtiRestoresIp := rfl

@[simp] theorem State.writeByte_prim (s : State) (a : Word) (v : Byte) :
    (s.writeByte a v).prim = s.prim := rfl

@[simp] theorem State.writeByte_shad (s : State) (a : Word) (v : Byte) :
    (s.writeByte a v).shad = s.shad := rfl

@[simp] theorem State.writeByte_ip (s : State) (a : Word) (v : Byte) :
    (s.writeByte a v).ip = s.ip := rfl

@[simp] theorem State.writeByte_ic (s : State) (a : Word) (v : Byte) :
    (s.writeByte a v).ic = s.ic := rfl

@[simp] theorem State.writeByte_t (s : State) (a : Word) (v : Byte) :
    (s.writeByte a v).t = s.t := rfl

@[simp] theorem State.writeByte_level (s : State) (a : Word) (v : Byte) :
    (s.writeByte a v).level = s.level := rfl

@[simp] theorem State.writeByte_interruptHandling (s : State) (a : Word) (v : Byte) :
    (s.writeByte a v).interruptHandling = s.interruptHandling := rfl

@[simp] theorem State.writeByte_clockInterrupt (s : State) (a : Word) (v : Byte) :
    (s.writeByte a v).clockInterrupt = s.clockInterrupt := rfl

@[simp] theorem State.writeByte_powerOn (s : State) (a : Word) (v : Byte) :
    (s.writeByte a v).powerOn = s.powerOn := rfl

@[simp] theorem State.writeByte_period (s : State) (a : Word) (v : Byte) :
    (s.writeByte a v).period = s.period := rfl

@[simp] theorem State.writeByte_multiplier (s : State) (a : Word) (v : Byte) :
    (s.writeByte a v).multiplier = s.multiplier := rfl

@[simp] theorem State.writeByte_stage (s : State) (a : Word) (v : Byte) :
    (s.writeByte a v).stage = s.stage := rfl

@[simp] theorem State.writeByte_nextTick (s : State) (a : Word) (v : Byte) :
    (s.writeByte a v).nextTick = s.nextTick := rfl

@[simp] theorem State.writeByte_now (s : State) (a : Word) (v : Byte) :
    (s.writeByte a v).now = s.now := rfl

@[simp] theorem State.writeByte_gaps (s : State) (a : Word) (v : Byte) :
    (s.writeByte a v).gaps = s.gaps := rfl

@[simp] theorem State.writeByte_input (s : State) (a : Word) (v : Byte) :
    (s.writeByte a v).input = s.input := rfl

@[simp] theorem State.writeByte_output (s : State) (a : Word) (v : Byte) :
    (s.writeByte a v).output = s.output := rfl

@[simp] theorem State.writeByte_sink (s : State) (a : Word) (v : Byte) :
    (s.writeByte a v).sink = s.sink := rfl

@[simp] theorem State.writeByte_inputExhausted (s : State) (a : Word) (v : Byte) :
    (s.writeByte a v).inputExhausted = s.inputExhausted := rfl

@[simp] theorem State.writeByte_rtiRestoresIp (s : State) (a : Word) (v : Byte) :
    (s.writeByte a v).rtiRestoresIp = s.rtiRestoresIp := rfl

@[simp] theorem State.writeWord_prim (s : State) (a v : Word) :
    (s.writeWord a v).prim = s.prim := rfl

@[simp] theorem State.writeWord_shad (s : State) (a v : Word) :
    (s.writeWord a v).shad = s.shad := rfl

@[simp] theorem State.writeWord_ip (s : State) (a v : Word) :
    (s.writeWord a v).ip = s.ip := rfl

@[simp] theorem State.writeWord_ic (s : State) (a v : Word) :
    (s.writeWord a v).ic = s.ic := rfl

@[simp] theorem State.writeWord_t (s : State) (a v : Word) :
    (s.writeWord a v).t = s.t := rfl

@[simp] theorem State.writeWord_level (s : State) (a v : Word) :
    (s.writeWord a v).level = s.level := rfl

@[simp] theorem State.writeWord_interruptHandling (s : State) (a v : Word) :
    (s.writeWord a v).interruptHandling = s.interruptHandling := rfl

@[simp] theorem State.writeWord_clockInterrupt (s : State) (a v : Word) :
    (s.writeWord a v).clockInterrupt = s.clockInterrupt := rfl

@[simp] theorem State.writeWord_powerOn (s : State) (a v : Word) :
    (s.writeWord a v).powerOn = s.powerOn := rfl

@[simp] theorem State.writeWord_period (s : State) (a v : Word) :
    (s.writeWord a v).period = s.period := rfl

@[simp] theorem State.writeWord_multiplier (s : State) (a v : Word) :
    (s.writeWord a v).multiplier = s.multiplier := rfl

@[simp] theorem State.writeWord_stage (s : State) (a v : Word) :
    (s.writeWord a v).stage = s.stage := rfl

@[simp] theorem State.writeWord_nextTick (s : State) (a v : Word) :
    (s.writeWord a v).nextTick = s.nextTick := rfl

@[simp] theorem State.writeWord_now (s : State) (a v : Word) :
    (s.writeWord a v).now = s.now := rfl

@[simp] theorem State.writeWord_gaps (s : State) (a v : Word) :
    (s.writeWord a v).gaps = s.gaps := rfl

@[simp] theorem State.writeWord_input (s : State) (a v : Word) :
    (s.writeWord a v).input = s.input := rfl

@[simp] theorem State.writeWord_output (s : State) (a v : Word) :
    (s.writeWord a v).output = s.output := rfl

@[simp] theorem State.writeWord_sink (s : State) (a v : Word) :
    (s.writeWord a v).sink = s.sink := rfl

@[simp] theorem State.writeWord_inputExhausted (s : State) (a v : Word) :
    (s.writeWord a v).inputExhausted = s.inputExhausted := rfl

@[simp] theorem State.writeWord_rtiRestoresIp (s : State) (a v : Word) :
    (s.writeWord a v).rtiRestoresIp = s.rtiRestoresIp := rfl

@[simp] theorem State.jump_prim (s : State) (w : Word) :
    (s.jump w).prim = s.prim := rfl

@[simp] theorem State.jump_shad (s : State) (w : Word) :
    (s.jump w).shad = s.shad := rfl

@[simp] theorem State.jump_ic (s : State) (w : Word) :
    (s.jump w).ic = s.ic := rfl

@[simp] theorem State.jump_t (s : State) (w : Word) :
    (s.jump w).t = s.t := rfl

@[simp] theorem State.jump_level (s : State) (w : Word) :
    (s.jump w).level = s.level := rfl

@[simp] theorem State.jump_interruptHandling (s : State) (w : Word) :
    (s.jump w).interruptHandling = s.interruptHandling := rfl

@[simp] theorem State.jump_clockInterrupt (s : State) (w : Word) :
    (s.jump w).clockInterrupt = s.clockInterrupt := rfl

@[simp] theorem State.jump_powerOn (s : State) (w : Word) :
    (s.jump w).powerOn = s.powerOn := rfl

@[simp] theorem State.jump_mem (s : State) (w : Word) :
    (s.jump w).mem = s.mem := rfl

@[simp] theorem State.jump_period (s : State) (w : Word) :
    (s.jump w).period = s.period := rfl

@[simp] theorem State.jump_multiplier (s : State) (w : Word) :
    (s.jump w).multiplier = s.multiplier := rfl

@[simp] theorem State.jump_stage (s : State) (w : Word) :
    (s.jump w).stage = s.stage := rfl

@[simp] theorem State.jump_nextTick (s : State) (w : Word) :
    (s.jump w).nextTick = s.nextTick := rfl

@[simp] theorem State.jump_now (s : State) (w : Word) :
    (s.jump w).now = s.now := rfl

@[simp] theorem State.jump_gaps (s : State) (w : Word) :
    (s.jump w).gaps = s.gaps := rfl

@[simp] theorem State.jump_input (s : State) (w : Word) :
    (s.jump w).input = s.input := rfl

@[simp] theorem State.jump_output (s : State) (w : Word) :
    (s.jump w).output = s.output := rfl

@[simp] theorem State.jump_sink (s : State) (w : Word) :
    (s.jump w).sink = s.sink := rfl

@[simp] theorem State.jump_inputExhausted (s : State) (w : Word) :
    (s.jump w).inputExhausted = s.inputExhausted := rfl

@[simp] theorem State.jump_rtiRestoresIp (s : State) (w : Word) :
    (s.jump w).rtiRestoresIp = s.rtiRestoresIp := rfl

@[simp] theorem State.pastByte_prim (s : State) :
    s.pastByte.prim = s.prim := rfl

@[simp] theorem State.pastByte_shad (s : State) :
    s.pastByte.shad = s.shad := rfl

@[simp] theorem State.pastByte_ic (s : State) :
    s.pastByte.ic = s.ic := rfl

@[simp] theorem State.pastByte_t (s : State) :
    s.pastByte.t = s.t := rfl

@[simp] theorem State.pastByte_level (s : State) :
    s.pastByte.level = s.level := rfl

@[simp] theorem State.pastByte_interruptHandling (s : State) :
    s.pastByte.interruptHandling = s.interruptHandling := rfl

@[simp] theorem State.pastByte_clockInterrupt (s : State) :
    s.pastByte.clockInterrupt = s.clockInterrupt := rfl

@[simp] theorem State.pastByte_powerOn (s : State) :
    s.pastByte.powerOn = s.powerOn := rfl

@[simp] theorem State.pastByte_mem (s : State) :
    s.pastByte.mem = s.mem := rfl

@[simp] theorem State.pastByte_period (s : State) :
    s.pastByte.period = s.period := rfl

@[simp] theorem State.pastByte_multiplier (s : State) :
    s.pastByte.multiplier = s.multiplier := rfl

@[simp] theorem State.pastByte_stage (s : State) :
    s.pastByte.stage = s.stage := rfl

@[simp] theorem State.pastByte_nextTick (s : State) :
    s.pastByte.nextTick = s.nextTick := rfl

@[simp] theorem State.pastByte_now (s : State) :
    s.pastByte.now = s.now := rfl

@[simp] theorem State.pastByte_gaps (s : State) :
    s.pastByte.gaps = s.gaps := rfl

@[simp] theorem State.pastByte_input (s : State) :
    s.pastByte.input = s.input := rfl

@[simp] theorem State.pastByte_output (s : State) :
    s.pastByte.output = s.output := rfl

@[simp] theorem State.pastByte_sink (s : State) :
    s.pastByte.sink = s.sink := rfl

@[simp] theorem State.pastByte_inputExhausted (s : State) :
    s.pastByte.inputExhausted = s.inputExhausted := rfl

@[simp] theorem State.pastByte_rtiRestoresIp (s : State) :
    s.pastByte.rtiRestoresIp = s.rtiRestoresIp := rfl

@[simp] theorem State.countStep_prim (s : State) :
    s.countStep.prim = s.prim := rfl

@[simp] theorem State.countStep_shad (s : State) :
    s.countStep.shad = s.shad := rfl

@[simp] theorem State.countStep_ip (s : State) :
    s.countStep.ip = s.ip := rfl

@[simp] theorem State.countStep_t (s : State) :
    s.countStep.t = s.t := rfl

@[simp] theorem State.countStep_level (s : State) :
    s.countStep.level = s.level := rfl

@[simp] theorem State.countStep_interruptHandling (s : State) :
    s.countStep.interruptHandling = s.interruptHandling := rfl

@[simp] theorem State.countStep_clockInterrupt (s : State) :
    s.countStep.clockInterrupt = s.clockInterrupt := rfl

@[simp] theorem State.countStep_powerOn (s : State) :
    s.countStep.powerOn = s.powerOn := rfl

@[simp] theorem State.countStep_mem (s : State) :
    s.countStep.mem = s.mem := rfl

@[simp] theorem State.countStep_period (s : State) :
    s.countStep.period = s.period := rfl

@[simp] theorem State.countStep_multiplier (s : State) :
    s.countStep.multiplier = s.multiplier := rfl

@[simp] theorem State.countStep_stage (s : State) :
    s.countStep.stage = s.stage := rfl

@[simp] theorem State.countStep_nextTick (s : State) :
    s.countStep.nextTick = s.nextTick := rfl

@[simp] theorem State.countStep_now (s : State) :
    s.countStep.now = s.now := rfl

@[simp] theorem State.countStep_gaps (s : State) :
    s.countStep.gaps = s.gaps := rfl

@[simp] theorem State.countStep_input (s : State) :
    s.countStep.input = s.input := rfl

@[simp] theorem State.countStep_output (s : State) :
    s.countStep.output = s.output := rfl

@[simp] theorem State.countStep_sink (s : State) :
    s.countStep.sink = s.sink := rfl

@[simp] theorem State.countStep_inputExhausted (s : State) :
    s.countStep.inputExhausted = s.inputExhausted := rfl

@[simp] theorem State.countStep_rtiRestoresIp (s : State) :
    s.countStep.rtiRestoresIp = s.rtiRestoresIp := rfl

@[simp] theorem State.readClock_prim (s : State) :
    s.readClock.prim = s.prim := rfl

@[simp] theorem State.readClock_shad (s : State) :
    s.readClock.shad = s.shad := rfl

@[simp] theorem State.readClock_ip (s : State) :
    s.readClock.ip = s.ip := rfl

@[simp] theorem State.readClock_ic (s : State) :
    s.readClock.ic = s.ic := rfl

@[simp] theorem State.readClock_t (s : State) :
    s.readClock.t = s.t := rfl

@[simp] theorem State.readClock_level (s : State) :
    s.readClock.level = s.level := rfl

@[simp] theorem State.readClock_interruptHandling (s : State) :
    s.readClock.interruptHandling = s.interruptHandling := rfl

@[simp] theorem State.readClock_clockInterrupt (s : State) :
    s.readClock.clockInterrupt = s.clockInterrupt := rfl

@[simp] theorem State.readClock_powerOn (s : State) :
    s.readClock.powerOn = s.powerOn := rfl

@[simp] theorem State.readClock_mem (s : State) :
    s.readClock.mem = s.mem := rfl

@[simp] theorem State.readClock_period (s : State) :
    s.readClock.period = s.period := rfl

@[simp] theorem State.readClock_multiplier (s : State) :
    s.readClock.multiplier = s.multiplier := rfl

@[simp] theorem State.readClock_stage (s : State) :
    s.readClock.stage = s.stage := rfl

@[simp] theorem State.readClock_nextTick (s : State) :
    s.readClock.nextTick = s.nextTick := rfl

@[simp] theorem State.readClock_input (s : State) :
    s.readClock.input = s.input := rfl

@[simp] theorem State.readClock_output (s : State) :
    s.readClock.output = s.output := rfl

@[simp] theorem State.readClock_sink (s : State) :
    s.readClock.sink = s.sink := rfl

@[simp] theorem State.readClock_inputExhausted (s : State) :
    s.readClock.inputExhausted = s.inputExhausted := rfl

@[simp] theorem State.readClock_rtiRestoresIp (s : State) :
    s.readClock.rtiRestoresIp = s.rtiRestoresIp := rfl

@[simp] theorem State.enterHandler_prim (s : State) (c : Byte) (l : Level) :
    (s.enterHandler c l).prim = s.prim := rfl

@[simp] theorem State.enterHandler_ic (s : State) (c : Byte) (l : Level) :
    (s.enterHandler c l).ic = s.ic := rfl

@[simp] theorem State.enterHandler_t (s : State) (c : Byte) (l : Level) :
    (s.enterHandler c l).t = s.t := rfl

@[simp] theorem State.enterHandler_interruptHandling (s : State) (c : Byte) (l : Level) :
    (s.enterHandler c l).interruptHandling = s.interruptHandling := rfl

@[simp] theorem State.enterHandler_clockInterrupt (s : State) (c : Byte) (l : Level) :
    (s.enterHandler c l).clockInterrupt = s.clockInterrupt := rfl

@[simp] theorem State.enterHandler_powerOn (s : State) (c : Byte) (l : Level) :
    (s.enterHandler c l).powerOn = s.powerOn := rfl

@[simp] theorem State.enterHandler_mem (s : State) (c : Byte) (l : Level) :
    (s.enterHandler c l).mem = s.mem := rfl

@[simp] theorem State.enterHandler_period (s : State) (c : Byte) (l : Level) :
    (s.enterHandler c l).period = s.period := rfl

@[simp] theorem State.enterHandler_multiplier (s : State) (c : Byte) (l : Level) :
    (s.enterHandler c l).multiplier = s.multiplier := rfl

@[simp] theorem State.enterHandler_stage (s : State) (c : Byte) (l : Level) :
    (s.enterHandler c l).stage = s.stage := rfl

@[simp] theorem State.enterHandler_nextTick (s : State) (c : Byte) (l : Level) :
    (s.enterHandler c l).nextTick = s.nextTick := rfl

@[simp] theorem State.enterHandler_now (s : State) (c : Byte) (l : Level) :
    (s.enterHandler c l).now = s.now := rfl

@[simp] theorem State.enterHandler_gaps (s : State) (c : Byte) (l : Level) :
    (s.enterHandler c l).gaps = s.gaps := rfl

@[simp] theorem State.enterHandler_input (s : State) (c : Byte) (l : Level) :
    (s.enterHandler c l).input = s.input := rfl

@[simp] theorem State.enterHandler_output (s : State) (c : Byte) (l : Level) :
    (s.enterHandler c l).output = s.output := rfl

@[simp] theorem State.enterHandler_sink (s : State) (c : Byte) (l : Level) :
    (s.enterHandler c l).sink = s.sink := rfl

@[simp] theorem State.enterHandler_inputExhausted (s : State) (c : Byte) (l : Level) :
    (s.enterHandler c l).inputExhausted = s.inputExhausted := rfl

@[simp] theorem State.enterHandler_rtiRestoresIp (s : State) (c : Byte) (l : Level) :
    (s.enterHandler c l).rtiRestoresIp = s.rtiRestoresIp := rfl

/-! ## The field an update writes -/

@[simp] theorem State.setHalf_prim (s : State) (h : Half) (v : Byte) :
    (s.setHalf h v).prim = s.prim.setHalf h v := rfl

@[simp] theorem State.setReg_prim (s : State) (r : Reg) (v : Word) :
    (s.setReg r v).prim = s.prim.setReg r v := rfl

@[simp] theorem State.writeByte_mem (s : State) (a : Word) (v : Byte) :
    (s.writeByte a v).mem = Memory.write s.mem a.toNat v := rfl

@[simp] theorem State.jump_ip (s : State) (w : Word) :
    (s.jump w).ip = w := rfl

@[simp] theorem State.pastByte_ip (s : State) :
    s.pastByte.ip = s.ip + 1#16 := rfl

@[simp] theorem State.countStep_ic (s : State) :
    s.countStep.ic = s.ic + 1#8 := rfl

@[simp] theorem State.enterHandler_ip (s : State) (c : Byte) (l : Level) :
    (s.enterHandler c l).ip = vectorAddress c s.t := rfl

@[simp] theorem State.enterHandler_level (s : State) (c : Byte) (l : Level) :
    (s.enterHandler c l).level = l := rfl

@[simp] theorem State.enterHandler_shad (s : State) (c : Byte) (l : Level) :
    (s.enterHandler c l).shad = { s.shad with a := s.ip } := rfl

/-! ## Bytes and words read after an update that writes no memory -/

@[simp] theorem State.readByte_setHalf (s : State) (h : Half) (v : Byte) (p : Word) :
    (s.setHalf h v).readByte p = s.readByte p := rfl

@[simp] theorem State.readByte_setReg (s : State) (r : Reg) (v : Word) (p : Word) :
    (s.setReg r v).readByte p = s.readByte p := rfl

@[simp] theorem State.readByte_setZ (s : State) (b : Bool) (p : Word) :
    (s.setZ b).readByte p = s.readByte p := rfl

@[simp] theorem State.readByte_setCY (s : State) (b : Bool) (p : Word) :
    (s.setCY b).readByte p = s.readByte p := rfl

@[simp] theorem State.readByte_jump (s : State) (w : Word) (p : Word) :
    (s.jump w).readByte p = s.readByte p := rfl

@[simp] theorem State.readByte_pastByte (s : State) (p : Word) :
    s.pastByte.readByte p = s.readByte p := rfl

@[simp] theorem State.readByte_countStep (s : State) (p : Word) :
    s.countStep.readByte p = s.readByte p := rfl

@[simp] theorem State.readByte_readClock (s : State) (p : Word) :
    s.readClock.readByte p = s.readByte p := rfl

@[simp] theorem State.readByte_enterHandler (s : State) (c : Byte) (l : Level) (p : Word) :
    (s.enterHandler c l).readByte p = s.readByte p := rfl

end Sys2Proof.Machine
end

