-- ==== Sys2Proof/Laws/Ops.lean ====
section
/-!
SUPPORT. What each shared operation can do, said once: the bit fields, the selector classes, the flags, the
interrupt controller, the ports, and the phases of a step.
-/
namespace Sys2Proof.Machine

/-! ## Bit fields -/

@[simp] theorem toNat_lo (v : Word) : (lo v).toNat = v.toNat % 256 := by
  simp [lo, BitVec.extractLsb'_toNat]

@[simp] theorem toNat_hi (v : Word) : (hi v).toNat = v.toNat / 256 := by
  have := v.isLt
  simp only [hi, BitVec.extractLsb'_toNat, Nat.shiftRight_eq_div_pow]
  omega

@[simp] theorem toNat_joinBytes (h l : Byte) : (joinBytes h l).toNat = 256 * h.toNat + l.toNat := by
  have := l.isLt
  simp only [joinBytes, BitVec.toNat_append]
  rw [← Nat.shiftLeft_add_eq_or_of_lt this, Nat.shiftLeft_eq]
  omega

@[simp] theorem lo_joinBytes (h l : Byte) : lo (joinBytes h l) = l := by
  apply BitVec.eq_of_toNat_eq
  have := l.isLt
  simp only [toNat_lo, toNat_joinBytes]
  omega

@[simp] theorem hi_joinBytes (h l : Byte) : hi (joinBytes h l) = h := by
  apply BitVec.eq_of_toNat_eq
  have := l.isLt
  have := h.isLt
  simp only [toNat_hi, toNat_joinBytes]
  omega

@[simp] theorem toNat_joinNibbles (h l : Code) : (joinNibbles h l).toNat = 16 * h.toNat + l.toNat := by
  have := l.isLt
  simp only [joinNibbles, BitVec.toNat_append]
  rw [← Nat.shiftLeft_add_eq_or_of_lt this, Nat.shiftLeft_eq]
  omega

/-! ## Addresses and data -/

/-- The effective address of the BP forms in the spec's arithmetic, `42_moves_loads_stores.md` rule
R188. -/
theorem toNat_eaBp (s : State) (d : Byte) : (s.eaBp d).toNat = s.eaBpNat d := by
  have := d.isLt
  have := s.prim.bp.isLt
  unfold State.eaBp State.eaBpNat sext16 signed8
  rw [BitVec.toNat_add, BitVec.toNat_signExtend]
  by_cases h : d.toNat < 128
  · simp only [h, if_true]
    have : d.msb = false := by simpa [BitVec.msb_eq_decide] using h
    simp [this]; omega
  · simp only [h, if_false]
    have : d.msb = true := by simp [BitVec.msb_eq_decide]; omega
    simp [this]; omega

/-- A 16-bit read is little-endian, `20_memory.md` rule R63. -/
theorem toNat_readWord (s : State) (a : Word) : (s.readWord a).toNat = s.wordNat a := by
  simp [State.readWord, State.wordNat]; omega

/-! ## The selector classes: `40_step_dispatch.md` rules R127 to R129 -/

theorem g8_of_le {k : Code} (h : k.toNat ≤ 3) : ∃ d, g8 k = some d :=
  Option.isSome_iff_exists.1 ((by decide : ∀ k : Code, k.toNat ≤ 3 → (g8 k).isSome) k h)

theorem g8_of_gt {k : Code} (h : 3 < k.toNat) : g8 k = none := by
  revert k; decide

theorem r16_of_le {k : Code} (h : k.toNat ≤ 3) : ∃ d, r16 k = some d :=
  Option.isSome_iff_exists.1 ((by decide : ∀ k : Code, k.toNat ≤ 3 → (r16 k).isSome) k h)

theorem r16_of_gt {k : Code} (h : 3 < k.toNat) : r16 k = none := by
  revert k; decide

theorem g16_of_le {k : Code} (h : k.toNat ≤ 1) : ∃ d, g16 k = some d ∧ r16 k = some d := by
  have both : ∀ k : Code, k.toNat ≤ 1 → (g16 k).isSome ∧ g16 k = r16 k := by decide
  obtain ⟨some, same⟩ := both k h
  obtain ⟨d, hd⟩ := Option.isSome_iff_exists.1 some
  exact ⟨d, hd, same ▸ hd⟩

theorem g16_of_gt {k : Code} (h : 1 < k.toNat) : g16 k = none := by
  revert k; decide

/-- A g8 code, seen from the half-register it selects. -/
theorem g8_cases {k : Code} {d : Half} (h : g8 k = some d) :
    (k = 0 ∧ d = .aLow) ∨ (k = 1 ∧ d = .aHigh) ∨ (k = 2 ∧ d = .cLow) ∨ (k = 3 ∧ d = .aHigh) := by
  revert d; revert k; decide

/-- An r16 code, seen from the register it selects. -/
theorem r16_cases {k : Code} {d : Reg} (h : r16 k = some d) :
    (k = 0 ∧ d = .a) ∨ (k = 1 ∧ d = .c) ∨ (k = 2 ∧ d = .sp) ∨ (k = 3 ∧ d = .bp) := by
  revert d; revert k; decide

/-- What a g8 code reads, rule R127. -/
theorem toNat_half_of_g8 {k : Code} {d : Half} (h : g8 k = some d) (b : Bank) :
    (b.half d).toNat = b.g8Nat k := by
  rcases g8_cases h with ⟨rfl, rfl⟩ | ⟨rfl, rfl⟩ | ⟨rfl, rfl⟩ | ⟨rfl, rfl⟩ <;>
    simp [Bank.half, Bank.g8Nat]

/-- What an r16 code reads, rule R128. -/
theorem toNat_reg_of_r16 {k : Code} {d : Reg} (h : r16 k = some d) (b : Bank) :
    (b.reg d).toNat = b.r16Nat k := by
  rcases r16_cases h with ⟨rfl, rfl⟩ | ⟨rfl, rfl⟩ | ⟨rfl, rfl⟩ | ⟨rfl, rfl⟩ <;> rfl

/-- What a write through a g8 code leaves, rule R127. -/
theorem wroteG8_setHalf {k : Code} {d : Half} (h : g8 k = some d) (s : State) (v : Byte) :
    WroteG8 k v.toNat s (s.setHalf d v) := by
  have := v.isLt
  have := s.prim.a.isLt
  have := s.prim.c.isLt
  refine ⟨?_, ?_, rfl, fun _ => rfl⟩ <;>
  rcases g8_cases h with ⟨rfl, rfl⟩ | ⟨rfl, rfl⟩ | ⟨rfl, rfl⟩ | ⟨rfl, rfl⟩ <;>
    simp [State.setHalf, Bank.setHalf, Bank.g8Nat, G8Frame] <;> omega

/-- What a write through an r16 code leaves, rule R128. -/
theorem wroteR16_setReg {k : Code} {d : Reg} (h : r16 k = some d) (s : State) (v : Word) :
    WroteR16 k v.toNat s (s.setReg d v) := by
  refine ⟨?_, ?_, rfl, fun _ => rfl⟩ <;>
  rcases r16_cases h with ⟨rfl, rfl⟩ | ⟨rfl, rfl⟩ | ⟨rfl, rfl⟩ | ⟨rfl, rfl⟩ <;>
    simp [State.setReg, Bank.setReg, Bank.r16Nat, R16Frame]

/-! ## The flags: `40_step_dispatch.md` rule R131 -/

/-- F after `SetZ`: bit 0 is the flag, the others are kept. -/
theorem setZ_bits (f : Byte) (b : Bool) :
    ((f.extractLsb' 1 7 ++ BitVec.ofBool b : Byte).getLsbD 0 = b) ∧
    ((f.extractLsb' 1 7 ++ BitVec.ofBool b : Byte) &&& 0xFE = f &&& 0xFE) := by
  revert f b; decide +kernel

/-- F after `SetCY`: bit 1 is the flag, the others are kept. -/
theorem setCY_bits (f : Byte) (b : Bool) :
    ((f.extractLsb' 2 6 ++ BitVec.ofBool b ++ f.extractLsb' 0 1 : Byte).getLsbD 1 = b) ∧
    ((f.extractLsb' 2 6 ++ BitVec.ofBool b ++ f.extractLsb' 0 1 : Byte) &&& 0xFD = f &&& 0xFD) := by
  revert f b; decide +kernel

theorem setZ_bit0 (s : State) (b : Bool) : (s.setZ b).prim.f.getLsbD 0 = b :=
  (setZ_bits s.prim.f b).1

theorem setCY_bit1 (s : State) (b : Bool) : (s.setCY b).prim.f.getLsbD 1 = b :=
  (setCY_bits s.prim.f b).1

/-- `SetZ` keeps every bit of F but bit 0. -/
theorem setZ_mask (s : State) (b : Bool) : FlagBitsKept 0xFE s.prim (s.setZ b).prim :=
  (setZ_bits s.prim.f b).2

/-- `SetCY` keeps every bit of F but bit 1. -/
theorem setCY_mask (s : State) (b : Bool) : FlagBitsKept 0xFD s.prim (s.setCY b).prim :=
  (setCY_bits s.prim.f b).2

/-- A bit inside the mask is kept. -/
theorem FlagBitsKept.bit {m : Byte} {b b' : Bank} (h : FlagBitsKept m b b') {i : Nat}
    (hm : m.getLsbD i = true) : b'.f.getLsbD i = b.f.getLsbD i := by
  have := congrArg (fun v : Byte => v.getLsbD i) h
  simpa only [BitVec.getLsbD_and, hm, Bool.and_true] using this

/-- A mask within a mask keeps what that one keeps. -/
theorem FlagBitsKept.weaken {m n : Byte} {b b' : Bank} (h : FlagBitsKept m b b') (hn : n &&& m = n) :
    FlagBitsKept n b b' := by
  unfold FlagBitsKept at *
  rw [← hn, BitVec.and_comm n m, ← BitVec.and_assoc, ← BitVec.and_assoc, h]

theorem FlagBitsKept.trans {m : Byte} {a b c : Bank} (h : FlagBitsKept m a b) (k : FlagBitsKept m b c) :
    FlagBitsKept m a c :=
  Eq.trans k h

theorem FlagBitsKept.of_eq {m : Byte} {b b' : Bank} (h : b'.f = b.f) : FlagBitsKept m b b' := by
  unfold FlagBitsKept; rw [h]

/-- The reserved bits stay zero under a write that keeps them. -/
theorem Bank.ReservedZero.of_kept {b b' : Bank} (h : b.ReservedZero) (k : FlagBitsKept 0xFC b b') :
    b'.ReservedZero := by
  have mask : ∀ f : Byte, f.toNat < 4 ↔ f &&& 0xFC = 0 := by decide +kernel
  exact (mask _).2 (Eq.trans k ((mask _).1 h))

/-- A g8 write is one whatever is then done to F. -/
theorem WroteG8.setZ {k : Code} {v : Nat} {s s' : State} (h : WroteG8 k v s s') (b : Bool) :
    WroteG8 k v s (s'.setZ b) := by
  obtain ⟨h1, h2, h3, h4⟩ := h
  exact ⟨h1, h2, by rw [h3]; rfl, h4⟩

theorem WroteG8.setCY {k : Code} {v : Nat} {s s' : State} (h : WroteG8 k v s s') (b : Bool) :
    WroteG8 k v s (s'.setCY b) := by
  obtain ⟨h1, h2, h3, h4⟩ := h
  exact ⟨h1, h2, by rw [h3]; rfl, h4⟩

/-- An r16 write is one whatever is then done to F. -/
theorem WroteR16.setZ {k : Code} {v : Nat} {s s' : State} (h : WroteR16 k v s s') (b : Bool) :
    WroteR16 k v s (s'.setZ b) := by
  obtain ⟨h1, h2, h3, h4⟩ := h
  exact ⟨h1, h2, by rw [h3]; rfl, h4⟩

theorem WroteR16.setCY {k : Code} {v : Nat} {s s' : State} (h : WroteR16 k v s s') (b : Bool) :
    WroteR16 k v s (s'.setCY b) := by
  obtain ⟨h1, h2, h3, h4⟩ := h
  exact ⟨h1, h2, by rw [h3]; rfl, h4⟩

/-! ## The interrupt controller -/

/-- All that a raise can do: nothing, when masked; the triple fault, at level 2; else one entry. -/
theorem raiseInterrupt_cases (s : State) (code : Byte) :
    (s.interruptHandling = false ∧ s.raiseInterrupt code = s) ∨
    (s.interruptHandling = true ∧ s.level = .two ∧ s.raiseInterrupt code = { s with powerOn := false }) ∨
    (s.interruptHandling = true ∧ s.level = .zero ∧ s.raiseInterrupt code = s.enterHandler code .one) ∨
    (s.interruptHandling = true ∧ s.level = .one ∧
      s.raiseInterrupt code = s.enterHandler (redirect code) .two) := by
  unfold State.raiseInterrupt
  cases s.interruptHandling <;> cases s.level <;> simp

/-- A raise writes the shadow bank, `ip`, the level and the power bit, and nothing else. -/
theorem raiseInterrupt_frame (s : State) (code : Byte) : ∃ shad ip level power,
    s.raiseInterrupt code = { s with shad := shad, ip := ip, level := level, powerOn := power } := by
  rcases raiseInterrupt_cases s code with ⟨_, e⟩ | ⟨_, _, e⟩ | ⟨_, _, e⟩ | ⟨_, _, e⟩ <;> rw [e] <;>
    exact ⟨_, _, _, _, rfl⟩

/-- All that a return from interrupt can do. -/
theorem returnFromInterrupt_cases (s : State) :
    (s.level = .two ∧ s.returnFromInterrupt = { s with level := .one, ip := s.shad.a }) ∨
    (s.level = .one ∧ s.returnFromInterrupt = { s with level := .zero, ip := s.shad.a }) ∨
    (s.level = .zero ∧ s.rtiRestoresIp = false ∧ s.returnFromInterrupt = s.badParameter) ∨
    (s.level = .zero ∧ s.rtiRestoresIp = true ∧
      s.returnFromInterrupt = s.badParameter.jump s.badParameter.shad.a) := by
  unfold State.returnFromInterrupt
  cases s.level <;> cases s.rtiRestoresIp <;> simp

/-! ## The ports -/

/-- All that `In()` can do. -/
theorem portIn_cases (s : State) :
    (∃ b rest, s.input = b :: rest ∧ s.portIn = some (b, { s with input := rest })) ∨
    (∃ b, s.input = [] ∧ s.inputExhausted = .value b ∧ s.portIn = some (b, s)) ∨
    (s.input = [] ∧ s.inputExhausted = .stuck ∧ s.portIn = none) := by
  unfold State.portIn
  cases s.input <;> cases s.inputExhausted <;> simp

/-- All that `Out(v)` can do. -/
theorem portOut_cases (s : State) (v : Byte) :
    (s.sink = .always ∧ s.portOut v = some { s with output := s.output ++ [v] }) ∨
    (∃ n, s.sink = .accepts (n + 1) ∧
      s.portOut v = some { s with output := s.output ++ [v], sink := .accepts n }) ∨
    (s.sink = .accepts 0 ∧ s.portOut v = none) := by
  unfold State.portOut
  cases h : s.sink with
  | always => simp
  | accepts n => cases n <;> simp

/-! ## The phases of a step -/

/-- All that phase 1 can do. -/
theorem clockPhase_cases (s : State) :
    ((s.clockInterrupt = true ∧ s.ic = 0x00) ∧ s.clockPhase = s.raiseInterrupt 0x01) ∨
    (¬ (s.clockInterrupt = true ∧ s.ic = 0x00) ∧ s.clockPhase = s) := by
  unfold State.clockPhase State.clockPending
  by_cases h : s.clockInterrupt = true ∧ s.ic = 0x00
  · exact .inl ⟨h, if_pos (by simp [h.1, h.2])⟩
  · exact .inr ⟨h, if_neg (by simpa [Bool.and_eq_true] using h)⟩

/-- Tick writes the governor's stage and deadline and the clock, and nothing else. -/
theorem tick_eq (s : State) : ∃ stage next now gaps,
    s.tick = { s with stage := stage, nextTick := next, now := now, gaps := gaps } := by
  unfold State.tick State.throttle State.readClock
  split <;> exact ⟨_, _, _, _, rfl⟩

/-- The stage after a Tick is below MULTIPLIER. -/
theorem tick_stage_lt (s : State) (h : 0 < s.multiplier) : s.tick.stage < s.multiplier := by
  unfold State.tick State.throttle State.readClock
  split
  · assumption
  · exact h

/-- An instruction is 1, 2 or 3 bytes, `30_encoding.md` rule R90. -/
theorem instrLength_cases (op : Byte) :
    instrLength op = 1 ∨ instrLength op = 2 ∨ instrLength op = 3 := by
  unfold instrLength
  cases formatOf op <;> simp [Format.length]

/-- The fetch moves `ip` past the instruction and changes nothing else. -/
theorem fetchInstr_state (s : State) :
    s.fetchInstr.2 = { s with ip := s.ip + BitVec.ofNat 16 (instrLength (s.readByte s.ip)) } := by
  unfold State.fetchInstr State.fetched State.pastByte
  rcases instrLength_cases (s.readByte s.ip) with h | h | h <;> simp only [h] <;>
    simp [BitVec.add_assoc]

/-- The fetch of a one-byte instruction. -/
theorem fetchInstr_one (s : State) (h : instrLength (s.readByte s.ip) = 1) :
    s.fetchInstr = (instrOf (s.readByte s.ip) 0#8 0#8, { s with ip := s.ip + 1#16 }) := by
  simp only [State.fetchInstr, State.fetched, h]
  rfl

/-- What the decoder reads from a byte list that begins with three bytes. -/
theorem decode_three (op b1 b2 : Byte) (tail : List Byte) :
    (instrLength op = 1 ∧ decode (op :: b1 :: b2 :: tail) = .ok (instrOf op 0 0, b1 :: b2 :: tail)) ∨
    (instrLength op = 2 ∧ decode (op :: b1 :: b2 :: tail) = .ok (instrOf op b1 0, b2 :: tail)) ∨
    (instrLength op = 3 ∧ decode (op :: b1 :: b2 :: tail) = .ok (instrOf op b1 b2, tail)) := by
  unfold decode
  rcases instrLength_cases op with h | h | h <;> simp [h]

/-- The instruction fetched is the one the decoder reads from the three bytes at `ip`. -/
theorem fetchInstr_instr (s : State) :
    ∃ rest, decode [s.readByte s.ip, s.readByte (s.ip + 1#16), s.readByte (s.ip + 2#16)] =
      .ok (s.fetchInstr.1, rest) := by
  have e : s.ip + 2#16 = s.ip + 1#16 + 1#16 := by rw [BitVec.add_assoc]; rfl
  rw [e]
  unfold State.fetchInstr State.fetched
  rcases decode_three (s.readByte s.ip) (s.readByte (s.ip + 1#16)) (s.readByte (s.ip + 1#16 + 1#16)) []
    with ⟨h, hd⟩ | ⟨h, hd⟩ | ⟨h, hd⟩ <;> simp only [hd, h] <;> exact ⟨_, rfl⟩

end Sys2Proof.Machine
end

