-- ==== Sys2Proof/Laws/Alu.lean ====
section
/-!
SUPPORT. What each shared arithmetic and stack operation does, said once in the spec's own arithmetic.
-/
namespace Sys2Proof.Machine

/-! ## Arithmetic: `41_alu.md` -/

/-- An addition to a half-register: the sum modulo 256, CY and Z, every other flag bit kept. -/
theorem addToHalf_spec {k : Code} {d : Half} (h : g8 k = some d) (s : State) (v : Byte) :
    WroteG8 k ((s.prim.g8Nat k + v.toNat) % 256) s (s.addToHalf d v) ∧
    (s.addToHalf d v).prim.f.getLsbD 1 = decide (255 < s.prim.g8Nat k + v.toNat) ∧
    (s.addToHalf d v).prim.f.getLsbD 0 = decide ((s.prim.g8Nat k + v.toNat) % 256 = 0) ∧
    FlagBitsKept 0xFC s.prim (s.addToHalf d v).prim := by
  have e : (s.half d).toNat = s.prim.g8Nat k := toNat_half_of_g8 h s.prim
  unfold State.addToHalf
  refine ⟨?_, ?_, ?_, ?_⟩
  · have w := ((wroteG8_setHalf h s (addN (s.half d) v).result).setCY (addN (s.half d) v).carry).setZ
      (addN (s.half d) v).zero
    rwa [show (addN (s.half d) v).result.toNat = (s.prim.g8Nat k + v.toNat) % 256 by
      simp [addN, narrow, e]] at w
  · rw [(setZ_mask _ _).bit (i := 1) (by decide), setCY_bit1]
    simp [addN, narrow, e]
  · rw [setZ_bit0]
    simp [addN, narrow, e]
  · exact ((FlagBitsKept.of_eq (by simp)).trans ((setCY_mask _ _).weaken (by decide))).trans
      ((setZ_mask _ _).weaken (by decide))

/-- An addition to a 16-bit register: the sum modulo 65536, CY and Z, every other flag bit kept. -/
theorem addToReg_spec {k : Code} {d : Reg} (h : r16 k = some d) (s : State) (v : Word) :
    WroteR16 k ((s.prim.r16Nat k + v.toNat) % 65536) s (s.addToReg d v) ∧
    (s.addToReg d v).prim.f.getLsbD 1 = decide (65535 < s.prim.r16Nat k + v.toNat) ∧
    (s.addToReg d v).prim.f.getLsbD 0 = decide ((s.prim.r16Nat k + v.toNat) % 65536 = 0) ∧
    FlagBitsKept 0xFC s.prim (s.addToReg d v).prim := by
  have e : (s.reg d).toNat = s.prim.r16Nat k := toNat_reg_of_r16 h s.prim
  unfold State.addToReg
  refine ⟨?_, ?_, ?_, ?_⟩
  · have w := ((wroteR16_setReg h s (addN (s.reg d) v).result).setCY (addN (s.reg d) v).carry).setZ
      (addN (s.reg d) v).zero
    rwa [show (addN (s.reg d) v).result.toNat = (s.prim.r16Nat k + v.toNat) % 65536 by
      simp [addN, narrow, e]] at w
  · rw [(setZ_mask _ _).bit (i := 1) (by decide), setCY_bit1]
    simp [addN, narrow, e]
  · rw [setZ_bit0]
    simp [addN, narrow, e]
  · exact ((FlagBitsKept.of_eq (by simp)).trans ((setCY_mask _ _).weaken (by decide))).trans
      ((setZ_mask _ _).weaken (by decide))

/-- A byte difference, as the mathematical modulus of rule R154. -/
theorem toNat_sub_byte (a b : Byte) : (a - b).toNat = (((a.toNat : Int) - b.toNat) % 256).toNat := by
  have := a.isLt
  have := b.isLt
  rw [BitVec.toNat_sub]
  omega

/-- A word difference, as the mathematical modulus of rule R155. -/
theorem toNat_sub_word (a b : Word) :
    (a - b).toNat = (((a.toNat : Int) - b.toNat) % 65536).toNat := by
  have := a.isLt
  have := b.isLt
  rw [BitVec.toNat_sub]
  omega

/-- A subtraction from a half-register: the difference modulo 256 and Z, every other flag bit kept. -/
theorem subFromHalf_spec {k : Code} {d : Half} (h : g8 k = some d) (s : State) (v : Byte) :
    WroteG8 k (((s.prim.g8Nat k : Int) - v.toNat) % 256).toNat s (s.subFromHalf d v) ∧
    (s.subFromHalf d v).prim.f.getLsbD 0 = decide (((s.prim.g8Nat k : Int) - v.toNat) % 256 = 0) ∧
    FlagBitsKept 0xFE s.prim (s.subFromHalf d v).prim := by
  have e : (s.half d).toNat = s.prim.g8Nat k := toNat_half_of_g8 h s.prim
  have r := toNat_sub_byte (s.half d) v
  rw [e] at r
  unfold State.subFromHalf
  refine ⟨?_, ?_, ?_⟩
  · have w := (wroteG8_setHalf h s (s.half d - v)).setZ (s.half d - v == 0)
    rwa [r] at w
  · rw [setZ_bit0, Bool.eq_iff_iff]
    simp only [beq_iff_eq, decide_eq_true_eq]
    rw [← BitVec.toNat_inj, r]
    simp only [BitVec.ofNat_eq_ofNat, BitVec.toNat_ofNat]
    omega
  · exact (FlagBitsKept.of_eq (by simp)).trans (setZ_mask _ _)

/-- A subtraction from a 16-bit register: the difference modulo 65536 and Z, every other flag bit kept. -/
theorem subFromReg_spec {k : Code} {d : Reg} (h : r16 k = some d) (s : State) (v : Word) :
    WroteR16 k (((s.prim.r16Nat k : Int) - v.toNat) % 65536).toNat s (s.subFromReg d v) ∧
    (s.subFromReg d v).prim.f.getLsbD 0 = decide (((s.prim.r16Nat k : Int) - v.toNat) % 65536 = 0) ∧
    FlagBitsKept 0xFE s.prim (s.subFromReg d v).prim := by
  have e : (s.reg d).toNat = s.prim.r16Nat k := toNat_reg_of_r16 h s.prim
  have r := toNat_sub_word (s.reg d) v
  rw [e] at r
  unfold State.subFromReg
  refine ⟨?_, ?_, ?_⟩
  · have w := (wroteR16_setReg h s (s.reg d - v)).setZ (s.reg d - v == 0)
    rwa [r] at w
  · rw [setZ_bit0, Bool.eq_iff_iff]
    simp only [beq_iff_eq, decide_eq_true_eq]
    rw [← BitVec.toNat_inj, r]
    simp only [BitVec.ofNat_eq_ofNat, BitVec.toNat_ofNat]
    omega
  · exact (FlagBitsKept.of_eq (by simp)).trans (setZ_mask _ _)

/-- The rotate formula of rule R162 fits a byte for amounts up to 7. -/
theorem toNat_rotateLeft8 (v : Byte) {n : Nat} (h : n ≤ 7) :
    (rotateLeft8 v n).toNat = v.toNat * 2 ^ n % 256 + v.toNat / 2 ^ (8 - n) := by
  have all : ∀ (v : Byte) (n : Fin 8),
      v.toNat * 2 ^ n.val % 256 + v.toNat / 2 ^ (8 - n.val) < 256 := by decide +kernel
  have := all v ⟨n, by omega⟩
  simp only [rotateLeft8, BitVec.toNat_ofNat]
  exact Nat.mod_eq_of_lt this

/-- The shift formula of rule R163. -/
theorem toNat_shift8 (v : Byte) (n : Nat) :
    (shift8 v n).toNat = if n ≤ 7 then v.toNat * 2 ^ n % 256 else v.toNat / 2 ^ (16 - n) := by
  unfold shift8
  split
  · simp only [BitVec.toNat_ofNat]
    exact Nat.mod_mod _ _
  · simp only [BitVec.toNat_ofNat]
    exact Nat.mod_eq_of_lt (lt_of_le_of_lt (Nat.div_le_self _ _) v.isLt)

/-- The logic operations: a g8 pair is combined into the destination, or the form faults. -/
theorem logic8_cases (s : State) (f : Byte → Byte → Byte) (x y : Code) :
    (∃ d r, g8 x = some d ∧ g8 y = some r ∧ s.logic8 f x y = s.setHalf d (f (s.half d) (s.half r))) ∨
    ((g8 x = none ∨ g8 y = none) ∧ s.logic8 f x y = s.badParameter) := by
  unfold State.logic8
  cases hx : g8 x <;> cases hy : g8 y <;> simp

/-! ## The stack: `45_nibble_ops.md` -/

/-- A byte push: SP and one byte of memory change, and nothing else. -/
theorem pushByte_eq (s : State) (v : Byte) :
    s.pushByte v = { s with
      prim := { s.prim with sp := s.prim.sp - 1#16 }
      mem := Memory.write s.mem (s.prim.sp - 1#16).toNat v } := rfl

/-- A word push: SP and two bytes of memory change, and nothing else. -/
theorem pushWord_eq (s : State) (v : Word) :
    s.pushWord v = { s with
      prim := { s.prim with sp := s.prim.sp - 2#16 }
      mem := (s.writeWord (s.prim.sp - 2#16) v).mem } := rfl

end Sys2Proof.Machine
end

