-- ==== Sys2Proof/Laws/Exec.lean ====
section
/-!
SUPPORT. What `exec` can do, said once: every next state it answers is one of the few shapes of `Effect`.
A statement about every instruction is proved by cases on the shape, and never unfolds a meaning.
-/
namespace Sys2Proof.Machine

/-- The instruction raises code `k` from state `s`: `60_exceptions.md` rule R279 and INT. -/
def Raises (i : Instr) (s : State) (k : Byte) : Prop :=
  (k = 0#8 ∧ (i.operandsLegal = false ∨ (∃ op, i = .illegal op) ∨
    (i = .rti ∧ s.level = .zero ∧ s.rtiRestoresIp = false))) ∨ i = .int k

/-- The instruction raises nothing, whatever the state: its operands are legal, and it is no illegal
opcode, no INT and no RTI. -/
def Quiet (i : Instr) : Prop :=
  i.operandsLegal = true ∧ (∀ op, i ≠ .illegal op) ∧ (∀ k, i ≠ .int k) ∧ i ≠ .rti

/-- The instruction is none of those that write state outside the banks, `ip` and memory, nor SWP. -/
def Plain (i : Instr) : Prop :=
  i ≠ .swp ∧ i ≠ .wrt ∧ i ≠ .ei ∧ i ≠ .di ∧ i ≠ .eci ∧ i ≠ .dci ∧ i ≠ .inp ∧ i ≠ .out ∧ i ≠ .hlt

/-- What an instruction writes of the primary bank only: C-high and the flags move only where the
instruction is listed for them. -/
def PrimWrite (i : Instr) (b b' : Bank) : Prop :=
  (¬ mayWriteCHigh i → b'.c.toNat / 256 = b.c.toNat / 256) ∧
    (¬ writesZ i → b'.f.getLsbD 0 = b.f.getLsbD 0) ∧ (¬ writesCY i → b'.f.getLsbD 1 = b.f.getLsbD 1) ∧
    FlagBitsKept 0xFC b b'

/-- The shapes of a next state. -/
inductive Effect (i : Instr) (s : State) : State → Prop where
  /-- A raise, and nothing else. -/
  | raise (k : Byte) (h : Raises i s k) : Effect i s (s.raiseInterrupt k)
  /-- A write of the primary bank and of `ip`. -/
  | regs (b : Bank) (ip : Word) (quiet : Quiet i) (plain : Plain i) (h : PrimWrite i s.prim b) :
      Effect i s { s with prim := b, ip := ip }
  /-- A store, which may move SP. -/
  | store (m : Memory) (sp : Word) (quiet : Quiet i) (plain : Plain i)
      (bytes : SameBytesBut (storedTo s i) s { s with mem := m })
      (wf : Memory.wf s.mem = true → Memory.wf m = true) :
      Effect i s { s with prim := { s.prim with sp := sp }, mem := m }
  /-- SWP. -/
  | swap (h : i = .swp) : Effect i s { s with prim := s.shad, shad := s.prim }
  /-- A return from an interrupt level above 0. -/
  | leave (lvl : Level) (h : i = .rti)
      (levels : (s.level = .two ∧ lvl = .one) ∨ (s.level = .one ∧ lvl = .zero)) :
      Effect i s { s with level := lvl, ip := s.shad.a }
  /-- RTI at level 0 where it restores `ip` after its raise. -/
  | strayReturn (h : i = .rti) (zero : s.level = .zero) (param : s.rtiRestoresIp = true) :
      Effect i s { s.raiseInterrupt 0#8 with ip := (s.raiseInterrupt 0#8).shad.a }
  /-- WRT. -/
  | writeT (v : Byte) (h : i = .wrt) : Effect i s { s with t := v }
  /-- EI and DI. -/
  | handling (v : Bool) (h : i = .ei ∨ i = .di) : Effect i s { s with interruptHandling := v }
  /-- ECI and DCI. -/
  | clock (v : Bool) (h : i = .eci ∨ i = .dci) : Effect i s { s with clockInterrupt := v }
  /-- HLT. -/
  | halt (h : i = .hlt) : Effect i s { s with powerOn := false }
  /-- IN. -/
  | input (b : Bank) (rest : List Byte) (h : i = .inp) (w : PrimWrite i s.prim b) :
      Effect i s { s with prim := b, input := rest }
  /-- OUT. -/
  | output (v : Byte) (k : Sink) (h : i = .out) : Effect i s { s with output := s.output ++ [v], sink := k }

/-! ## The shapes of the shared operations -/

theorem PrimWrite.refl (i : Instr) (b : Bank) : PrimWrite i b b :=
  ⟨fun _ => rfl, fun _ => rfl, fun _ => rfl, rfl⟩

theorem primWrite_setHalf (i : Instr) (b : Bank) (d : Half) (v : Byte) : PrimWrite i b (b.setHalf d v) := by
  refine ⟨fun _ => ?_, fun _ => ?_, fun _ => ?_, FlagBitsKept.of_eq ?_⟩ <;> cases d <;> simp [Bank.setHalf]
  have := v.isLt
  omega

/-- A write of a 16-bit register other than C leaves C-high; one of C is by an instruction listed for it. -/
theorem primWrite_setReg {i : Instr} {d : Reg} (h : d = .c → mayWriteCHigh i) (b : Bank) (v : Word) :
    PrimWrite i b (b.setReg d v) := by
  refine ⟨fun n => ?_, fun _ => ?_, fun _ => ?_, FlagBitsKept.of_eq ?_⟩ <;> cases d <;> simp [Bank.setReg]
  exact absurd (h rfl) n

theorem PrimWrite.setZ {i : Instr} {b : Bank} {s : State} (h : PrimWrite i b s.prim) (hz : writesZ i)
    (v : Bool) : PrimWrite i b (s.setZ v).prim :=
  ⟨h.1, fun n => absurd hz n, fun n => ((setZ_mask s v).bit (i := 1) (by decide)).trans (h.2.2.1 n),
    h.2.2.2.trans ((setZ_mask s v).weaken (by decide))⟩

theorem PrimWrite.setCY {i : Instr} {b : Bank} {s : State} (h : PrimWrite i b s.prim) (hc : writesCY i)
    (v : Bool) : PrimWrite i b (s.setCY v).prim :=
  ⟨h.1, fun n => ((setCY_mask s v).bit (i := 0) (by decide)).trans (h.2.1 n), fun n => absurd hc n,
    h.2.2.2.trans ((setCY_mask s v).weaken (by decide))⟩

/-- A state that differs in the primary bank only, as a shape. -/
theorem Effect.prim {i : Instr} {s s' : State} (quiet : Quiet i) (plain : Plain i)
    (h : PrimWrite i s.prim s'.prim) (e : s' = { s with prim := s'.prim }) : Effect i s s' := by
  rw [e]
  exact .regs s'.prim s.ip quiet plain h

/-- A jump, as a shape. -/
theorem Effect.jump {i : Instr} {s : State} (quiet : Quiet i) (plain : Plain i) (w : Word) :
    Effect i s (s.jump w) :=
  .regs s.prim w quiet plain (.refl i _)

theorem Effect.same {i : Instr} {s : State} (quiet : Quiet i) (plain : Plain i) : Effect i s s :=
  .regs s.prim s.ip quiet plain (.refl i _)

/-- A faulting operand, as a shape. -/
theorem Effect.bad {i : Instr} {s : State} (h : i.operandsLegal = false) : Effect i s s.badParameter :=
  .raise 0#8 (.inl ⟨rfl, .inl h⟩)

/-! ## Every instruction -/

theorem class_of_g8 {k : Code} {d : Half} (h : g8 k = some d) : isClassCode k = true := by
  revert d; revert k; decide

theorem class_of_r16 {k : Code} {d : Reg} (h : r16 k = some d) : isClassCode k = true := by
  revert d; revert k; decide

theorem not_class_of_g8 {k : Code} (h : g8 k = none) : isClassCode k = false := by
  revert k; decide

theorem not_class_of_r16 {k : Code} (h : r16 k = none) : isClassCode k = false := by
  revert k; decide

theorem code_of_r16_c {k : Code} (h : r16 k = some .c) : k.toNat = 1 := by
  revert k; decide

/-- The three byte operations without flags have one shape. -/
theorem effect_logic8 {i : Instr} {s : State} (f : Byte → Byte → Byte) (x y : Code)
    (legal : i.operandsLegal = (isClassCode x && isClassCode y)) (plain : Plain i)
    (ops : (∀ op, i ≠ .illegal op) ∧ (∀ k, i ≠ .int k) ∧ i ≠ .rti) : Effect i s (s.logic8 f x y) := by
  rcases logic8_cases s f x y with ⟨d, r, hx, hy, e⟩ | ⟨h | h, e⟩ <;> rw [e]
  · exact .prim ⟨by rw [legal, class_of_g8 hx, class_of_g8 hy]; rfl, ops⟩ plain (primWrite_setHalf ..) rfl
  · exact .bad (by rw [legal, not_class_of_g8 h]; rfl)
  · exact .bad (by rw [legal, not_class_of_g8 h, Bool.and_false])

theorem effect_store1 {i : Instr} {s : State} (a : Word) (v : Byte) (quiet : Quiet i) (plain : Plain i)
    (st : storedTo s i = [a]) : Effect i s (s.writeByte a v) :=
  .store _ s.prim.sp quiet plain
    (fun b hb => State.readByte_writeByte_other s v (by simpa [st] using hb)) (State.wf_writeByte s a v)

theorem effect_store2 {i : Instr} {s : State} (a v : Word) (quiet : Quiet i) (plain : Plain i)
    (st : storedTo s i = [a, a + 1#16]) : Effect i s (s.writeWord a v) :=
  .store _ s.prim.sp quiet plain
    (fun b hb => by
      have h : b ≠ a ∧ b ≠ a + 1#16 := by simpa [st] using hb
      exact State.readByte_writeWord_other s v h.1 h.2)
    (State.wf_writeWord s a v)

theorem le_of_g16 {k : Code} {d : Reg} (h : g16 k = some d) : k.toNat ≤ 1 := by
  revert d; revert k; decide

theorem gt_of_g16 {k : Code} (h : g16 k = none) : 1 < k.toNat := by
  revert k; decide

theorem code_of_g16_c {k : Code} (h : g16 k = some .c) : k.toNat = 1 := by
  revert k; decide

theorem PrimWrite.trans {i : Instr} {a b c : Bank} (h : PrimWrite i a b) (k : PrimWrite i b c) :
    PrimWrite i a c :=
  ⟨fun n => (k.1 n).trans (h.1 n), fun n => (k.2.1 n).trans (h.2.1 n),
    fun n => (k.2.2.1 n).trans (h.2.2.1 n), h.2.2.2.trans k.2.2.2⟩

/-- An instruction over one g8 code: its primary bank write, or the fault. -/
theorem effect_one8 {i : Instr} {s s' : State} {k : Code} (f : Half → State)
    (legal : i.operandsLegal = isClassCode k) (plain : Plain i)
    (ops : (∀ op, i ≠ .illegal op) ∧ (∀ k, i ≠ .int k) ∧ i ≠ .rti)
    (good : ∀ d, PrimWrite i s.prim (f d).prim ∧ f d = { s with prim := (f d).prim })
    (h : (match g8 k with
      | some d => Host.Outcome.next (f d)
      | none => .next s.badParameter) = (.next s' : Result)) : Effect i s s' := by
  split at h <;> rename_i hd <;> cases h
  · exact .prim ⟨by rw [legal, class_of_g8 hd], ops⟩ plain (good _).1 (good _).2
  · exact .bad (by rw [legal, not_class_of_g8 hd])

/-- An instruction over one r16 code. -/
theorem effect_one16 {i : Instr} {s s' : State} {k : Code} (f : Reg → State)
    (legal : i.operandsLegal = isClassCode k) (plain : Plain i)
    (ops : (∀ op, i ≠ .illegal op) ∧ (∀ k, i ≠ .int k) ∧ i ≠ .rti)
    (good : ∀ d, r16 k = some d → PrimWrite i s.prim (f d).prim ∧ f d = { s with prim := (f d).prim })
    (h : (match r16 k with
      | some d => Host.Outcome.next (f d)
      | none => .next s.badParameter) = (.next s' : Result)) : Effect i s s' := by
  split at h <;> rename_i hd <;> cases h
  · exact .prim ⟨by rw [legal, class_of_r16 hd], ops⟩ plain (good _ hd).1 (good _ hd).2
  · exact .bad (by rw [legal, not_class_of_r16 hd])

/-- An instruction over two g8 codes. -/
theorem effect_pair8 {i : Instr} {s s' : State} {x y : Code} (f : Half → Half → State)
    (legal : i.operandsLegal = (isClassCode x && isClassCode y)) (plain : Plain i)
    (ops : (∀ op, i ≠ .illegal op) ∧ (∀ k, i ≠ .int k) ∧ i ≠ .rti)
    (good : ∀ d r, PrimWrite i s.prim (f d r).prim ∧ f d r = { s with prim := (f d r).prim })
    (h : (match g8 x, g8 y with
      | some d, some r => Host.Outcome.next (f d r)
      | _, _ => .next s.badParameter) = (.next s' : Result)) : Effect i s s' := by
  cases hx : g8 x <;> cases hy : g8 y <;> rw [hx, hy] at h <;> cases h
  · exact .bad (by rw [legal, not_class_of_g8 hx]; rfl)
  · exact .bad (by rw [legal, not_class_of_g8 hx]; rfl)
  · exact .bad (by rw [legal, not_class_of_g8 hy, Bool.and_false])
  · exact .prim ⟨by rw [legal, class_of_g8 hx, class_of_g8 hy]; rfl, ops⟩ plain (good _ _).1 (good _ _).2

/-- An instruction over two r16 codes. -/
theorem effect_pair16 {i : Instr} {s s' : State} {x y : Code} (f : Reg → Reg → State)
    (legal : i.operandsLegal = (isClassCode x && isClassCode y)) (plain : Plain i)
    (ops : (∀ op, i ≠ .illegal op) ∧ (∀ k, i ≠ .int k) ∧ i ≠ .rti)
    (good : ∀ d r, r16 x = some d →
      PrimWrite i s.prim (f d r).prim ∧ f d r = { s with prim := (f d r).prim })
    (h : (match r16 x, r16 y with
      | some d, some r => Host.Outcome.next (f d r)
      | _, _ => .next s.badParameter) = (.next s' : Result)) : Effect i s s' := by
  cases hx : r16 x <;> cases hy : r16 y <;> rw [hx, hy] at h <;> cases h
  · exact .bad (by rw [legal, not_class_of_r16 hx]; rfl)
  · exact .bad (by rw [legal, not_class_of_r16 hx]; rfl)
  · exact .bad (by rw [legal, not_class_of_r16 hy, Bool.and_false])
  · exact .prim ⟨by rw [legal, class_of_r16 hx, class_of_r16 hy]; rfl, ops⟩ plain (good _ _ hx).1 (good _ _ hx).2

/-- Every next state that `exec` answers has one of the shapes of `Effect`. -/
theorem exec_effect (i : Instr) (s s' : State) (h : exec i s = .next s') : Effect i s s' := by
  cases i with
  | nop | rsv54 | rsv55 => cases h; exact .same (by simp [Quiet, Instr.operandsLegal]) (by simp [Plain])
  | incc | decc =>
    cases h
    exact .prim (by simp [Quiet, Instr.operandsLegal]) (by simp [Plain])
      (primWrite_setReg (by intro _; trivial) ..) rfl
  | ldbBp d | ldbC | rdt =>
    cases h
    exact .prim (by simp [Quiet, Instr.operandsLegal]) (by simp [Plain]) (primWrite_setHalf ..) rfl
  | ldwBp d | ldwC =>
    cases h
    exact .prim (by simp [Quiet, Instr.operandsLegal]) (by simp [Plain])
      (primWrite_setReg (d := .a) (fun e => by cases e) ..) rfl
  | and8 x y | or8 x y | xor8 x y => cases h; exact effect_logic8 _ x y rfl (by simp [Plain]) (by simp)
  | stbBp d | stbC =>
    cases h; exact effect_store1 _ _ (by simp [Quiet, Instr.operandsLegal]) (by simp [Plain]) rfl
  | stwBp d | stwC =>
    cases h; exact effect_store2 _ _ (by simp [Quiet, Instr.operandsLegal]) (by simp [Plain]) rfl
  | swp => cases h; exact .swap rfl
  | wrt => cases h; exact .writeT _ rfl
  | jmp w | call w | calla =>
    cases h; exact .jump (by simp [Quiet, Instr.operandsLegal]) (by simp [Plain]) _
  | jz w | jc w | jnz w | jnc w =>
    cases h
    split <;> exact .jump (by simp [Quiet, Instr.operandsLegal]) (by simp [Plain]) _
  | int k => cases h; exact .raise k (.inr rfl)
  | ret =>
    cases h
    exact .regs _ _ (by simp [Quiet, Instr.operandsLegal]) (by simp [Plain])
      (primWrite_setReg (d := .sp) (fun e => by cases e) ..)
  | rti =>
    cases h
    rcases returnFromInterrupt_cases s with ⟨hl, e⟩ | ⟨hl, e⟩ | ⟨hl, hp, e⟩ | ⟨hl, hp, e⟩ <;> rw [e]
    · exact .leave .one rfl (.inl ⟨hl, rfl⟩)
    · exact .leave .zero rfl (.inr ⟨hl, rfl⟩)
    · exact .raise 0#8 (.inl ⟨rfl, .inr (.inr ⟨rfl, hl, hp⟩)⟩)
    · exact .strayReturn rfl hl hp
  | ei => cases h; exact .handling true (.inl rfl)
  | di => cases h; exact .handling false (.inr rfl)
  | eci => cases h; exact .clock true (.inl rfl)
  | dci => cases h; exact .clock false (.inr rfl)
  | hlt => cases h; exact .halt rfl
  | illegal op => cases h; exact .raise 0#8 (.inl ⟨rfl, .inr (.inl ⟨op, rfl⟩)⟩)
  | inp =>
    simp only [exec, execInp] at h
    rcases portIn_cases s with ⟨b, rest, _, e⟩ | ⟨b, _, _, e⟩ | ⟨_, _, e⟩ <;> rw [e] at h <;> cases h
    · exact .input _ rest rfl (primWrite_setHalf ..)
    · exact .input _ s.input rfl (primWrite_setHalf ..)
  | out =>
    simp only [exec, execOut] at h
    rcases portOut_cases s (s.half .aLow) with ⟨_, e⟩ | ⟨n, _, e⟩ | ⟨_, e⟩ <;> rw [e] at h <;> cases h
    · exact .output _ s.sink rfl
    · exact .output _ _ rfl
  | add8 x y =>
    exact effect_pair8 _ rfl (by simp [Plain]) (by simp) (fun d r =>
      ⟨((primWrite_setHalf ..).setCY (s := s.setHalf d _) (by trivial) _).setZ (by trivial) _, rfl⟩) h
  | sub8 x y =>
    exact effect_pair8 _ rfl (by simp [Plain]) (by simp) (fun d r =>
      ⟨(primWrite_setHalf ..).setZ (s := s.setHalf d _) (by trivial) _, rfl⟩) h
  | mov8 x y =>
    exact effect_pair8 _ rfl (by simp [Plain]) (by simp) (fun d r => ⟨primWrite_setHalf .., rfl⟩) h
  | add16 x y =>
    exact effect_pair16 _ rfl (by simp [Plain]) (by simp) (fun d r hd =>
      ⟨((primWrite_setReg (by intro e; exact code_of_r16_c (e ▸ hd)) ..).setCY (s := s.setReg d _)
        (by trivial) _).setZ (by trivial) _, rfl⟩) h
  | sub16 x y =>
    exact effect_pair16 _ rfl (by simp [Plain]) (by simp) (fun d r hd =>
      ⟨(primWrite_setReg (by intro e; exact code_of_r16_c (e ▸ hd)) ..).setZ (s := s.setReg d _)
        (by trivial) _, rfl⟩) h
  | mov16 x y =>
    exact effect_pair16 _ rfl (by simp [Plain]) (by simp) (fun d r hd =>
      ⟨primWrite_setReg (by intro e; exact code_of_r16_c (e ▸ hd)) .., rfl⟩) h
  | mvi8 k b =>
    exact effect_one8 _ rfl (by simp [Plain]) (by simp) (fun d => ⟨primWrite_setHalf .., rfl⟩) h
  | pop8 k =>
    exact effect_one8 _ rfl (by simp [Plain]) (by simp) (fun d =>
      ⟨(primWrite_setReg (d := .sp) (fun e => by cases e) ..).trans (primWrite_setHalf ..), rfl⟩) h
  | adi8 k b =>
    exact effect_one8 _ rfl (by simp [Plain]) (by simp) (fun d =>
      ⟨((primWrite_setHalf ..).setCY (s := s.setHalf d _) (by trivial) _).setZ (by trivial) _, rfl⟩) h
  | mvi16 k w =>
    exact effect_one16 _ rfl (by simp [Plain]) (by simp) (fun d hd =>
      ⟨primWrite_setReg (by intro e; exact code_of_r16_c (e ▸ hd)) .., rfl⟩) h
  | pop16 k =>
    exact effect_one16 _ rfl (by simp [Plain]) (by simp) (fun d hd =>
      ⟨(primWrite_setReg (d := .sp) (fun e => by cases e) ..).trans
        (primWrite_setReg (by intro e; exact code_of_r16_c (e ▸ hd)) ..), rfl⟩) h
  | adi16 k w =>
    exact effect_one16 _ rfl (by simp [Plain]) (by simp) (fun d hd =>
      ⟨((primWrite_setReg (by intro e; exact code_of_r16_c (e ▸ hd)) ..).setCY (s := s.setReg d _)
        (by trivial) _).setZ (by trivial) _, rfl⟩) h
  | shf8 x y =>
    exact effect_one8 _ rfl (by simp [Plain]) (by simp) (fun d => ⟨primWrite_setHalf .., rfl⟩) h
  | rol8 x y =>
    simp only [exec, execRol8] at h
    split at h
    · rename_i d hd
      split at h <;> rename_i hy <;> cases h
      · exact .prim ⟨by simp [Instr.operandsLegal, class_of_g8 hd, hy], by simp⟩ (by simp [Plain])
          (primWrite_setHalf ..) rfl
      · exact .bad (by simp [Instr.operandsLegal, hy])
    · rename_i hd
      cases h
      exact .bad (by simp [Instr.operandsLegal, not_class_of_g8 hd])
  | mul8 x y =>
    simp only [exec, execMul8] at h
    split at h
    · rename_i hd
      cases h
      exact .bad (by simp [Instr.operandsLegal, not_class_of_g8 hd])
    · rename_i d hd
      split at h
      · rename_i r hr
        cases h
        have hy : y.toNat ≤ 4 := by revert hr; revert r; revert y; decide
        exact .prim ⟨by simp [Instr.operandsLegal, class_of_g8 hd, hy], by simp⟩ (by simp [Plain])
          ((primWrite_setHalf ..).setCY (s := s.setHalf d _) (by trivial) _) rfl
      · rename_i hr
        split at h <;> rename_i hy <;> cases h
        · exact .prim ⟨by simp [Instr.operandsLegal, class_of_g8 hd, hy], by simp⟩ (by simp [Plain])
            ((primWrite_setReg (d := .a) (fun e => by cases e) ..).setCY (s := s.setReg .a _)
              (by trivial) _) rfl
        · have hy4 : ¬ y.toNat ≤ 4 := by revert hr hy; revert y; decide
          exact .bad (by simp [Instr.operandsLegal, hy4])
  | neg x y =>
    simp only [exec, execNeg] at h
    split at h
    · rename_i hy
      split at h <;> rename_i hd <;> cases h
      · have hx := class_of_g8 hd
        exact .prim ⟨by simpa [Instr.operandsLegal, hy, isClassCode] using hx, by simp⟩ (by simp [Plain])
          (primWrite_setHalf ..) rfl
      · have hx := not_class_of_g8 hd
        exact .bad (by simpa [Instr.operandsLegal, hy, isClassCode] using hx)
    · rename_i hy
      split at h <;> rename_i hd <;> cases h
      · have hx := le_of_g16 hd
        exact .prim ⟨by simpa [Instr.operandsLegal, hy] using hx, by simp⟩ (by simp [Plain])
          (primWrite_setReg (by intro e; exact ⟨hy, code_of_g16_c (e ▸ hd)⟩) ..) rfl
      · have hx := gt_of_g16 hd
        exact .bad (by simpa [Instr.operandsLegal, hy] using hx)
    · rename_i h0 h1
      cases h
      exact .bad (by
        simp only [Instr.operandsLegal]
        rw [beq_eq_false_iff_ne.2 h0, beq_eq_false_iff_ne.2 h1]
        rfl)
  | movx tag =>
    simp only [exec, execMovx] at h
    split at h <;> cases h
    · rename_i ht
      exact .prim ⟨by simp [Instr.operandsLegal, ht], by simp⟩ (by simp [Plain]) (primWrite_setHalf ..) rfl
    · rename_i ht
      exact .prim ⟨by simp [Instr.operandsLegal, ht], by simp⟩ (by simp [Plain]) (primWrite_setHalf ..) rfl
    · rename_i ht
      exact .prim ⟨by simp [Instr.operandsLegal, ht], by simp⟩ (by simp [Plain])
        (primWrite_setReg (d := .a) (fun e => by cases e) ..) rfl
    · rename_i h1 h2 h3
      refine .bad ?_
      have out : ¬ (1 ≤ tag.toNat ∧ tag.toNat ≤ 3) := fun b => by
        have : tag.toNat = 1 ∨ tag.toNat = 2 ∨ tag.toNat = 3 := by omega
        tauto
      simpa only [Instr.operandsLegal, Bool.and_eq_false_iff, decide_eq_false_iff_not,
        not_and_or] using out
  | push8 k =>
    simp only [exec, execPush8] at h
    split at h <;> rename_i hd <;> cases h
    · have hk : k.toNat ≤ 3 := by simpa [isClassCode] using class_of_g8 hd
      refine .store _ (s.prim.sp - 1#16) ⟨class_of_g8 hd, by simp⟩ (by simp [Plain]) (fun b hb => ?_)
        (State.wf_writeByte s (s.prim.sp - 1#16) _)
      exact State.readByte_writeByte_other s _
        (show b ≠ s.prim.sp - 1#16 by simpa [storedTo, hk] using hb)
    · exact .bad (not_class_of_g8 hd)
  | push16 k =>
    simp only [exec, execPush16] at h
    split at h <;> rename_i hd <;> cases h
    · have hk : k.toNat ≤ 3 := by simpa [isClassCode] using class_of_r16 hd
      refine .store _ (s.prim.sp - 2#16) ⟨class_of_r16 hd, by simp⟩ (by simp [Plain]) (fun b hb => ?_)
        (State.wf_writeWord s (s.prim.sp - 2#16) _)
      have e : s.prim.sp - 2#16 + 1#16 = s.prim.sp - 1#16 := by bv_omega
      have hb' : b ≠ s.prim.sp - 2#16 ∧ b ≠ s.prim.sp - 1#16 := by simpa [storedTo, hk] using hb
      exact State.readByte_writeWord_other s _ hb'.1 (e ▸ hb'.2)
    · exact .bad (not_class_of_r16 hd)

/-! ## A step -/

/-- A step that answers a next state: the machine is on, `exec` answered, and the step was counted. -/
theorem step_next {s s' : State} (h : step s = .next s') :
    s.powerOn = true ∧ ∃ u, exec s.toExecute.1 s.toExecute.2 = .next u ∧ s' = u.countStep := by
  unfold step at h
  split at h
  · refine ⟨by assumption, ?_⟩
    cases hx : exec s.toExecute.1 s.toExecute.2 with
    | next u => rw [hx] at h; cases h; exact ⟨u, rfl, rfl⟩
    | fault r => rw [hx] at h; cases h
    | refused r => rw [hx] at h; cases h
  · cases h

/-- Phases 1 to 3 write the shadow bank, `ip`, the level, the power bit and the governor, nothing else. -/
theorem toExecute_frame (s : State) : ∃ shad ip level power stage next now gaps,
    s.toExecute.2 = { s with
      shad := shad, ip := ip, level := level, powerOn := power,
      stage := stage, nextTick := next, now := now, gaps := gaps } := by
  unfold State.toExecute
  rw [fetchInstr_state]
  obtain ⟨_, _, _, _, e⟩ := tick_eq s.clockPhase
  rw [e]
  rcases clockPhase_cases s with ⟨_, e⟩ | ⟨_, e⟩ <;> rw [e]
  · obtain ⟨_, _, _, _, e⟩ := raiseInterrupt_frame s 0x01
    rw [e]
    exact ⟨_, _, _, _, _, _, _, _, rfl⟩
  · exact ⟨_, _, _, _, _, _, _, _, rfl⟩

end Sys2Proof.Machine
end

