-- ==== Sys2Proof/Laws/PerInstr.lean ====
section
/-!
SUPPORT. Statements made per instruction: `30_encoding.md` rules R90 and R95.
-/
namespace Sys2Proof.Laws.EncodedShape

/-- The encoding is an opcode byte and the trailing bytes its format has, so that the length of the
instruction is the one its opcode byte gives. -/
def Statement (i : Instr) : Prop :=
  i.wf = true → ∃ op tail, encode i = op :: tail ∧ (encode i).length = instrLength op

/-- The length of each nibble family, whatever the selector. -/
theorem instrLength_nibble (sel : Code) :
    instrLength (joinNibbles 0x8 sel) = 2 ∧ instrLength (joinNibbles 0x9 sel) = 3 ∧
      instrLength (joinNibbles 0xA sel) = 1 ∧ instrLength (joinNibbles 0xB sel) = 1 ∧
      instrLength (joinNibbles 0xC sel) = 1 ∧ instrLength (joinNibbles 0xD sel) = 1 ∧
      instrLength (joinNibbles 0xE sel) = 2 ∧ instrLength (joinNibbles 0xF sel) = 3 := by
  revert sel; decide

/-- An illegal opcode byte is one byte long. -/
theorem instrLength_illegal (op : Byte) (h : isIllegalOpcode op = true) : instrLength op = 1 := by
  revert op; decide +kernel

theorem nop : Statement .nop := fun _ => ⟨_, _, rfl, rfl⟩
theorem add8 (x y : Code) : Statement (.add8 x y) := fun _ => ⟨_, _, rfl, rfl⟩
theorem add16 (x y : Code) : Statement (.add16 x y) := fun _ => ⟨_, _, rfl, rfl⟩
theorem sub8 (x y : Code) : Statement (.sub8 x y) := fun _ => ⟨_, _, rfl, rfl⟩
theorem sub16 (x y : Code) : Statement (.sub16 x y) := fun _ => ⟨_, _, rfl, rfl⟩
theorem incc : Statement .incc := fun _ => ⟨_, _, rfl, rfl⟩
theorem decc : Statement .decc := fun _ => ⟨_, _, rfl, rfl⟩
theorem neg (x y : Code) : Statement (.neg x y) := fun _ => ⟨_, _, rfl, rfl⟩
theorem and8 (x y : Code) : Statement (.and8 x y) := fun _ => ⟨_, _, rfl, rfl⟩
theorem or8 (x y : Code) : Statement (.or8 x y) := fun _ => ⟨_, _, rfl, rfl⟩
theorem xor8 (x y : Code) : Statement (.xor8 x y) := fun _ => ⟨_, _, rfl, rfl⟩
theorem rol8 (x y : Code) : Statement (.rol8 x y) := fun _ => ⟨_, _, rfl, rfl⟩
theorem shf8 (x y : Code) : Statement (.shf8 x y) := fun _ => ⟨_, _, rfl, rfl⟩
theorem mul8 (x y : Code) : Statement (.mul8 x y) := fun _ => ⟨_, _, rfl, rfl⟩
theorem mov8 (x y : Code) : Statement (.mov8 x y) := fun _ => ⟨_, _, rfl, rfl⟩
theorem mov16 (x y : Code) : Statement (.mov16 x y) := fun _ => ⟨_, _, rfl, rfl⟩
theorem movx (tag : Byte) : Statement (.movx tag) := fun _ => ⟨_, _, rfl, rfl⟩
theorem ldbBp (d : Byte) : Statement (.ldbBp d) := fun _ => ⟨_, _, rfl, rfl⟩
theorem ldbC : Statement .ldbC := fun _ => ⟨_, _, rfl, rfl⟩
theorem stbBp (d : Byte) : Statement (.stbBp d) := fun _ => ⟨_, _, rfl, rfl⟩
theorem stbC : Statement .stbC := fun _ => ⟨_, _, rfl, rfl⟩
theorem swp : Statement .swp := fun _ => ⟨_, _, rfl, rfl⟩
theorem ldwBp (d : Byte) : Statement (.ldwBp d) := fun _ => ⟨_, _, rfl, rfl⟩
theorem ldwC : Statement .ldwC := fun _ => ⟨_, _, rfl, rfl⟩
theorem rdt : Statement .rdt := fun _ => ⟨_, _, rfl, rfl⟩
theorem wrt : Statement .wrt := fun _ => ⟨_, _, rfl, rfl⟩
theorem stwBp (d : Byte) : Statement (.stwBp d) := fun _ => ⟨_, _, rfl, rfl⟩
theorem stwC : Statement .stwC := fun _ => ⟨_, _, rfl, rfl⟩
theorem jmp (target : Word) : Statement (.jmp target) := fun _ => ⟨_, _, rfl, rfl⟩
theorem jz (target : Word) : Statement (.jz target) := fun _ => ⟨_, _, rfl, rfl⟩
theorem jc (target : Word) : Statement (.jc target) := fun _ => ⟨_, _, rfl, rfl⟩
theorem jnz (target : Word) : Statement (.jnz target) := fun _ => ⟨_, _, rfl, rfl⟩
theorem jnc (target : Word) : Statement (.jnc target) := fun _ => ⟨_, _, rfl, rfl⟩
theorem call (target : Word) : Statement (.call target) := fun _ => ⟨_, _, rfl, rfl⟩
theorem calla : Statement .calla := fun _ => ⟨_, _, rfl, rfl⟩
theorem int (code : Byte) : Statement (.int code) := fun _ => ⟨_, _, rfl, rfl⟩
theorem ret : Statement .ret := fun _ => ⟨_, _, rfl, rfl⟩
theorem rti : Statement .rti := fun _ => ⟨_, _, rfl, rfl⟩
theorem ei : Statement .ei := fun _ => ⟨_, _, rfl, rfl⟩
theorem di : Statement .di := fun _ => ⟨_, _, rfl, rfl⟩
theorem eci : Statement .eci := fun _ => ⟨_, _, rfl, rfl⟩
theorem dci : Statement .dci := fun _ => ⟨_, _, rfl, rfl⟩
theorem rsv54 : Statement .rsv54 := fun _ => ⟨_, _, rfl, rfl⟩
theorem rsv55 : Statement .rsv55 := fun _ => ⟨_, _, rfl, rfl⟩
theorem inp : Statement .inp := fun _ => ⟨_, _, rfl, rfl⟩
theorem out : Statement .out := fun _ => ⟨_, _, rfl, rfl⟩
theorem hlt : Statement .hlt := fun _ => ⟨_, _, rfl, rfl⟩
theorem mvi8 (sel : Code) (imm : Byte) : Statement (.mvi8 sel imm) :=
  fun _ => ⟨_, _, rfl, (instrLength_nibble sel).1.symm⟩
theorem mvi16 (sel : Code) (imm : Word) : Statement (.mvi16 sel imm) :=
  fun _ => ⟨_, _, rfl, (instrLength_nibble sel).2.1.symm⟩
theorem push8 (sel : Code) : Statement (.push8 sel) :=
  fun _ => ⟨_, _, rfl, (instrLength_nibble sel).2.2.1.symm⟩
theorem push16 (sel : Code) : Statement (.push16 sel) :=
  fun _ => ⟨_, _, rfl, (instrLength_nibble sel).2.2.2.1.symm⟩
theorem pop8 (sel : Code) : Statement (.pop8 sel) :=
  fun _ => ⟨_, _, rfl, (instrLength_nibble sel).2.2.2.2.1.symm⟩
theorem pop16 (sel : Code) : Statement (.pop16 sel) :=
  fun _ => ⟨_, _, rfl, (instrLength_nibble sel).2.2.2.2.2.1.symm⟩
theorem adi8 (sel : Code) (imm : Byte) : Statement (.adi8 sel imm) :=
  fun _ => ⟨_, _, rfl, (instrLength_nibble sel).2.2.2.2.2.2.1.symm⟩
theorem adi16 (sel : Code) (imm : Word) : Statement (.adi16 sel imm) :=
  fun _ => ⟨_, _, rfl, (instrLength_nibble sel).2.2.2.2.2.2.2.symm⟩
theorem illegal (op : Byte) : Statement (.illegal op) :=
  fun h => ⟨op, [], rfl, (instrLength_illegal op h).symm⟩

end Sys2Proof.Laws.EncodedShape
end

