-- ==== Sys2Proof/Tests/Slice0.lean ====
section
/-!
SUPPORT. Tests: the smoke test of WellFormed, one word of every constructor, one step on small states, and
the witnesses that the hypotheses of the statements can be met.

Sources of the expected results: the words are written out from the tables of `30_encoding.md` rules R92
and R96; a step test names its vector `V<n>` of `95_test_vectors.md` part 2, a host test its item `S<n>` of
part 1.
-/
namespace Sys2Proof.Tests

open Sys2Proof Sys2Proof.Machine

/-! ## WellFormed -/

theorem test_illformed_nop_opcode_is_not_illegal : (Instr.illegal 0x00).wf = false := by decide
theorem test_illformed_last_byte_operation : (Instr.illegal 0x70).wf = false := by decide
theorem test_illformed_nibble_opcode : (Instr.illegal 0x80).wf = false := by decide
theorem test_wellformed_illegal_byte : (Instr.illegal 0x71).wf = true := by decide
theorem test_operands_add8_code_4_refused : (Instr.add8 0 4).operandsLegal = false := by decide
theorem test_operands_add16_code_15_refused : (Instr.add16 15 0).operandsLegal = false := by decide
theorem test_operands_neg_mode_2_refused : (Instr.neg 0 2).operandsLegal = false := by decide
theorem test_operands_neg_register_2_refused : (Instr.neg 2 1).operandsLegal = false := by decide
theorem test_operands_rol8_amount_8_refused : (Instr.rol8 0 8).operandsLegal = false := by decide
theorem test_operands_shf8_code_4_refused : (Instr.shf8 4 0).operandsLegal = false := by decide
theorem test_operands_mul8_code_5_refused : (Instr.mul8 0 5).operandsLegal = false := by decide
theorem test_operands_movx_tag_0_refused : (Instr.movx 0).operandsLegal = false := by decide
theorem test_operands_pop16_selector_8_refused : (Instr.pop16 8).operandsLegal = false := by decide
theorem test_operands_mul8_wide_accepted : (Instr.mul8 3 4).operandsLegal = true := by decide

/-! ## Decoding: `30_encoding.md` rules R92 and R96, one word of every constructor -/

theorem test_decode_nop : decodeTableWord 8 0x00 = some .nop := by decide
theorem test_decode_add8 : decodeTableWord 16 0x3101 = some (.add8 3 1) := by decide
theorem test_decode_add16 : decodeTableWord 16 0xC302 = some (.add16 12 3) := by decide
theorem test_decode_sub8 : decodeTableWord 16 0x0203 = some (.sub8 0 2) := by decide
theorem test_decode_sub16 : decodeTableWord 16 0x2104 = some (.sub16 2 1) := by decide
theorem test_decode_incc : decodeTableWord 8 0x05 = some .incc := by decide
theorem test_decode_decc : decodeTableWord 8 0x06 = some .decc := by decide
theorem test_decode_neg : decodeTableWord 16 0x1007 = some (.neg 1 0) := by decide
theorem test_decode_and8 : decodeTableWord 16 0x1208 = some (.and8 1 2) := by decide
theorem test_decode_or8 : decodeTableWord 16 0x0109 = some (.or8 0 1) := by decide
theorem test_decode_xor8 : decodeTableWord 16 0x200A = some (.xor8 2 0) := by decide
theorem test_decode_rol8 : decodeTableWord 16 0x070B = some (.rol8 0 7) := by decide
theorem test_decode_shf8 : decodeTableWord 16 0x1F0C = some (.shf8 1 15) := by decide
theorem test_decode_mul8 : decodeTableWord 16 0x240D = some (.mul8 2 4) := by decide
theorem test_decode_mov8 : decodeTableWord 16 0x1220 = some (.mov8 1 2) := by decide
theorem test_decode_mov16 : decodeTableWord 16 0x3221 = some (.mov16 3 2) := by decide
theorem test_decode_movx : decodeTableWord 16 0x0322 = some (.movx 3) := by decide
theorem test_decode_ldb_bp : decodeTableWord 16 0xFF23 = some (.ldbBp 0xFF) := by decide
theorem test_decode_ldb_c : decodeTableWord 8 0x24 = some .ldbC := by decide
theorem test_decode_stb_bp : decodeTableWord 16 0x8025 = some (.stbBp 0x80) := by decide
theorem test_decode_stb_c : decodeTableWord 8 0x26 = some .stbC := by decide
theorem test_decode_swp : decodeTableWord 8 0x28 = some .swp := by decide
theorem test_decode_ldw_bp : decodeTableWord 16 0xFE29 = some (.ldwBp 0xFE) := by decide
theorem test_decode_ldw_c : decodeTableWord 8 0x2A = some .ldwC := by decide
theorem test_decode_rdt : decodeTableWord 8 0x2B = some .rdt := by decide
theorem test_decode_wrt : decodeTableWord 8 0x2C = some .wrt := by decide
theorem test_decode_stw_bp : decodeTableWord 16 0x7F2D = some (.stwBp 0x7F) := by decide
theorem test_decode_stw_c : decodeTableWord 8 0x2E = some .stwC := by decide
theorem test_decode_jmp : decodeTableWord 24 0x123440 = some (.jmp 0x1234) := by decide
theorem test_decode_jz : decodeTableWord 24 0x200041 = some (.jz 0x2000) := by decide
theorem test_decode_jc : decodeTableWord 24 0x00FF42 = some (.jc 0x00FF) := by decide
theorem test_decode_jnz : decodeTableWord 24 0x000443 = some (.jnz 0x0004) := by decide
theorem test_decode_jnc : decodeTableWord 24 0xFF0044 = some (.jnc 0xFF00) := by decide
theorem test_decode_call : decodeTableWord 24 0x001048 = some (.call 0x0010) := by decide
theorem test_decode_calla : decodeTableWord 8 0x49 = some .calla := by decide
theorem test_decode_int : decodeTableWord 16 0x054A = some (.int 5) := by decide
theorem test_decode_ret : decodeTableWord 8 0x4B = some .ret := by decide
theorem test_decode_rti : decodeTableWord 8 0x4C = some .rti := by decide
theorem test_decode_ei : decodeTableWord 8 0x50 = some .ei := by decide
theorem test_decode_di : decodeTableWord 8 0x51 = some .di := by decide
theorem test_decode_eci : decodeTableWord 8 0x52 = some .eci := by decide
theorem test_decode_dci : decodeTableWord 8 0x53 = some .dci := by decide
theorem test_decode_rsv54 : decodeTableWord 8 0x54 = some .rsv54 := by decide
theorem test_decode_rsv55 : decodeTableWord 8 0x55 = some .rsv55 := by decide
theorem test_decode_in : decodeTableWord 8 0x60 = some .inp := by decide
theorem test_decode_out : decodeTableWord 8 0x61 = some .out := by decide
theorem test_decode_hlt : decodeTableWord 8 0x70 = some .hlt := by decide
theorem test_decode_mvi8 : decodeTableWord 16 0x7F83 = some (.mvi8 3 0x7F) := by decide
theorem test_decode_mvi16 : decodeTableWord 24 0x800092 = some (.mvi16 2 0x8000) := by decide
theorem test_decode_push8 : decodeTableWord 8 0xA1 = some (.push8 1) := by decide
theorem test_decode_push16 : decodeTableWord 8 0xBF = some (.push16 15) := by decide
theorem test_decode_pop8 : decodeTableWord 8 0xC2 = some (.pop8 2) := by decide
theorem test_decode_pop16 : decodeTableWord 8 0xD1 = some (.pop16 1) := by decide
theorem test_decode_adi8 : decodeTableWord 16 0xFFE2 = some (.adi8 2 0xFF) := by decide
theorem test_decode_adi16 : decodeTableWord 24 0xFFFCF2 = some (.adi16 2 0xFFFC) := by decide
theorem test_decode_illegal_0E : decodeTableWord 8 0x0E = some (.illegal 0x0E) := by decide
theorem test_decode_illegal_7F : decodeTableWord 8 0x7F = some (.illegal 0x7F) := by decide

/-- The list of `30_encoding.md` rule R98 has 81 bytes. -/
theorem test_illegal_opcode_count :
    ((List.range 256).filter fun n => isIllegalOpcode (BitVec.ofNat 8 n)).length = 81 := by decide +kernel

theorem test_decode_refuses_no_bytes : decode [] = .error .noBytes := by decide
theorem test_decode_refuses_truncated : decode [0x40, 0x34] = .error (.truncated 0x40) := by decide

/-! ## One step: `95_test_vectors.md` part 2 -/

/-- The step from `s` with `bytes` placed at `at_` and `ip` there answers a next state that passes `p`. -/
def after (at_ : Word) (bytes : List Byte) (s : State) (p : State → Bool) : Bool :=
  match step ((State.storeBytes s at_ bytes).jump at_) with
  | .next s' => p s'
  | _ => false

/-! ### ALU -/

theorem test_nop_only_advances : -- V1
    after 0x0100 [0x00] State.reset
      (fun s => s.ip = 0x0101) := by decide

theorem test_add8_carry : -- V2
    after 0x0100 [0x01, 0x02] { State.reset with prim.a := 0x12F0, prim.c := 0x0020 }
      (fun s => s.prim.a = 0x1210 ∧ s.prim.f = 0x02) := by decide

theorem test_add8_code_3_is_a_high : -- V4
    after 0x0100 [0x01, 0x13] { State.reset with prim.a := 0x4001 }
      (fun s => s.prim.a = 0x8001) := by decide

theorem test_add16_carry : -- V9
    after 0x0100 [0x02, 0x01] { State.reset with prim.a := 0xFFFF, prim.c := 0x0002 }
      (fun s => s.prim.a = 0x0001 ∧ s.prim.f = 0x02) := by decide

theorem test_add16_wraps_to_zero : -- V10
    after 0x0100 [0x02, 0x23] { State.reset with prim.sp := 0x8000, prim.bp := 0x8000 }
      (fun s => s.prim.f = 0x03 ∧ s.prim.sp = 0x0000) := by decide

theorem test_sub8_keeps_carry : -- V12
    after 0x0100 [0x03, 0x02]
      { State.reset with prim.a := 0x0005, prim.c := 0x0007, prim.f := 0x02 }
      (fun s => s.prim.a = 0x00FE ∧ s.prim.f = 0x02) := by decide

theorem test_sub8_sets_zero : -- V13
    after 0x0100 [0x03, 0x11] { State.reset with prim.a := 0x7700, prim.f := 0x00 }
      (fun s => s.prim.a = 0x0000 ∧ s.prim.f = 0x01) := by decide

theorem test_sub16_sp : -- V15
    after 0x0100 [0x04, 0x21] { State.reset with prim.c := 0x0010, prim.sp := 0x8000 }
      (fun s => s.prim.sp = 0x7FF0) := by decide

theorem test_sub16_clears_zero : -- V16
    after 0x0100 [0x04, 0x01]
      { State.reset with prim.a := 0x0000, prim.c := 0x0001, prim.f := 0x03 }
      (fun s => s.prim.a = 0xFFFF ∧ s.prim.f = 0x02) := by decide

theorem test_incc_wraps_without_flags : -- V18
    after 0x0100 [0x05] { State.reset with prim.c := 0xFFFF, prim.f := 0x00 }
      (fun s => s.prim.c = 0x0000 ∧ s.prim.f = 0x00) := by decide

theorem test_decc_wraps_without_flags : -- V19
    after 0x0100 [0x06] { State.reset with prim.c := 0x0000, prim.f := 0x01 }
      (fun s => s.prim.c = 0xFFFF ∧ s.prim.f = 0x01) := by decide

theorem test_neg_half : -- V21
    after 0x0100 [0x07, 0x00] { State.reset with prim.a := 0x0001 }
      (fun s => s.prim.a = 0x00FF) := by decide

theorem test_neg_register : -- V22
    after 0x0100 [0x07, 0x01] { State.reset with prim.a := 0x0001 }
      (fun s => s.prim.a = 0xFFFF) := by decide

theorem test_and8 : -- V28
    after 0x0100 [0x08, 0x02] { State.reset with prim.a := 0x00F0, prim.c := 0x003C }
      (fun s => s.prim.a = 0x0030) := by decide

theorem test_or8 : -- V30
    after 0x0100 [0x09, 0x02] { State.reset with prim.a := 0x00F0, prim.c := 0x003C }
      (fun s => s.prim.a = 0x00FC) := by decide

theorem test_xor8 : -- V31
    after 0x0100 [0x0A, 0x02] { State.reset with prim.a := 0x00F0, prim.c := 0x003C }
      (fun s => s.prim.a = 0x00CC) := by decide

theorem test_rol8_by_one : -- V33
    after 0x0100 [0x0B, 0x01] { State.reset with prim.a := 0x0081 }
      (fun s => s.prim.a = 0x0003) := by decide

theorem test_rol8_by_seven : -- V36
    after 0x0100 [0x0B, 0x07] { State.reset with prim.a := 0x0081 }
      (fun s => s.prim.a = 0x00C0) := by decide

theorem test_shf8_right_by_one : -- V43
    after 0x0100 [0x0C, 0x0F] { State.reset with prim.a := 0x0081 }
      (fun s => s.prim.a = 0x0040) := by decide

theorem test_shf8_right_by_four : -- V44
    after 0x0100 [0x0C, 0x0C] { State.reset with prim.a := 0x00A5 }
      (fun s => s.prim.a = 0x000A) := by decide

theorem test_mul8_narrow_carry : -- V46
    after 0x0100 [0x0D, 0x02]
      { State.reset with prim.a := 0x0010, prim.c := 0x0010, prim.f := 0x00 }
      (fun s => s.prim.a = 0x0000 ∧ s.prim.f = 0x02) := by decide

theorem test_mul8_wide : -- V52
    after 0x0100 [0x0D, 0x04] { State.reset with prim.a := 0x0102 }
      (fun s => s.prim.a = 0x0204) := by decide

/-! ### Moves, loads, stores -/

theorem test_mov8 : -- V60
    after 0x0100 [0x20, 0x12] { State.reset with prim.a := 0x12AB, prim.c := 0x00CD }
      (fun s => s.prim.a = 0xCDAB) := by decide

theorem test_mov8_code_3_reads_a_high : -- V61
    after 0x0100 [0x20, 0x23] { State.reset with prim.a := 0x12AB, prim.c := 0xEE00 }
      (fun s => s.prim.c = 0xEE12) := by decide

theorem test_mov16 : -- V64
    after 0x0100 [0x21, 0x32] { State.reset with prim.sp := 0x7FF0 }
      (fun s => s.prim.bp = 0x7FF0) := by decide

theorem test_movx_reads_ic_before_the_count : -- V68
    after 0x0100 [0x22, 0x02] { State.reset with prim.a := 0xFFFF, ic := 0x2A }
      (fun s => s.prim.a = 0xFF2A ∧ s.ic = 0x2B) := by decide

theorem test_movx_reads_wrapped_ip : -- V70
    after 0xFFFE [0x22, 0x03] { State.reset with prim.a := 0x1111 }
      (fun s => s.prim.a = 0x0000) := by decide

theorem test_ldb_bp_negative : -- V73
    after 0x0100 [0x23, 0xFF]
      (State.writeByte { State.reset with prim.a := 0x1200, prim.bp := 0x4000 } 0x3FFF 0x77)
      (fun s => s.prim.a = 0x1277) := by decide

theorem test_ldb_bp_wraps : -- V75
    after 0x0100 [0x23, 0x7F]
      (State.writeByte { State.reset with prim.a := 0x0000, prim.bp := 0xFFFF } 0x007E 0x55)
      (fun s => s.prim.a = 0x0055) := by decide

theorem test_ldb_c : -- V76
    after 0x0100 [0x24]
      (State.writeByte { State.reset with prim.a := 0xAA00, prim.c := 0x2000 } 0x2000 0x5A)
      (fun s => s.prim.a = 0xAA5A) := by decide

theorem test_stb_bp_lowest_displacement : -- V81
    after 0x0100 [0x25, 0x80] { State.reset with prim.a := 0x0042, prim.bp := 0x0010 }
      (fun s => s.ip = 0x0102 ∧ s.readByte 0xFF90 = 0x42) := by decide

theorem test_stb_c : -- V82
    after 0x0100 [0x26] { State.reset with prim.a := 0x0042, prim.c := 0x2000 }
      (fun s => s.ip = 0x0101 ∧ s.readByte 0x2000 = 0x42) := by decide

theorem test_swp : -- V85
    after 0x0100 [0x28]
      { State.reset with prim.a := 0x1111, prim.f := 0x01, shad.a := 0x0006, shad.f := 0x02 }
      (fun s => s.prim.a = 0x0006 ∧ s.prim.f = 0x02 ∧ s.shad.a = 0x1111) := by decide

theorem test_ldw_bp : -- V77
    after 0x0100 [0x29, 0xFE]
      (State.storeBytes { State.reset with prim.bp := 0x4000 } 0x3FFE [0x34, 0x12])
      (fun s => s.prim.a = 0x1234) := by decide

theorem test_ldw_bp_wraps : -- V78
    after 0x0100 [0x29, 0x00]
      (State.storeBytes { State.reset with prim.bp := 0xFFFF } 0xFFFF [0xCD, 0xAB])
      (fun s => s.prim.a = 0xABCD) := by decide

theorem test_ldw_c : -- V79
    after 0x0100 [0x2A] (State.storeBytes { State.reset with prim.c := 0x2000 } 0x2000 [0xCD, 0xAB])
      (fun s => s.prim.a = 0xABCD) := by decide

theorem test_rdt : -- V86
    after 0x0100 [0x2B] { State.reset with prim.a := 0xFF00, t := 0x03 }
      (fun s => s.prim.a = 0xFF03) := by decide

theorem test_wrt : -- V87
    after 0x0100 [0x2C] { State.reset with prim.a := 0x1221 }
      (fun s => s.t = 0x21) := by decide

theorem test_stw_bp : -- V83
    after 0x0100 [0x2D, 0xFE] { State.reset with prim.a := 0x1234, prim.bp := 0x4000 }
      (fun s => s.ip = 0x0102 ∧ s.readByte 0x3FFE = 0x34 ∧ s.readByte 0x3FFF = 0x12) := by decide

theorem test_stw_c_wraps : -- V84
    after 0x0100 [0x2E] { State.reset with prim.a := 0xBEEF, prim.c := 0xFFFF }
      (fun s => s.ip = 0x0101 ∧ s.readByte 0xFFFF = 0xEF ∧ s.readByte 0x0000 = 0xBE) := by decide

/-! ### Control transfer -/

theorem test_jmp_bytes_wrap : -- V99
    after 0xFFFF [0x40, 0x00, 0x30] State.reset
      (fun s => s.ip = 0x3000) := by decide

theorem test_jz_taken : -- V91
    after 0x0100 [0x41, 0x00, 0x20] { State.reset with prim.f := 0x01 }
      (fun s => s.ip = 0x2000) := by decide

theorem test_jz_not_taken : -- V92
    after 0x0100 [0x41, 0x00, 0x20] { State.reset with prim.f := 0x02 }
      (fun s => s.ip = 0x0103) := by decide

theorem test_jc_taken : -- V93
    after 0x0100 [0x42, 0x00, 0x20] { State.reset with prim.f := 0x02 }
      (fun s => s.ip = 0x2000) := by decide

theorem test_jc_not_taken : -- V94
    after 0x0100 [0x42, 0x00, 0x20] { State.reset with prim.f := 0x01 }
      (fun s => s.ip = 0x0103) := by decide

theorem test_jnz_taken : -- V95
    after 0x0100 [0x43, 0x04, 0x00] { State.reset with prim.f := 0x00 }
      (fun s => s.ip = 0x0004) := by decide

theorem test_jnz_not_taken : -- V96
    after 0x0100 [0x43, 0x04, 0x00] { State.reset with prim.f := 0x03 }
      (fun s => s.ip = 0x0103) := by decide

theorem test_jnc_taken : -- V97
    after 0x0100 [0x44, 0x00, 0x20] { State.reset with prim.f := 0x01 }
      (fun s => s.ip = 0x2000) := by decide

theorem test_jnc_not_taken : -- V98
    after 0x0100 [0x44, 0x00, 0x20] { State.reset with prim.f := 0x03 }
      (fun s => s.ip = 0x0103) := by decide

theorem test_call_pushes_nothing : -- V100
    after 0x0100 [0x48, 0x10, 0x00] { State.reset with prim.sp := 0x7FFE }
      (fun s => s.ip = 0x0010 ∧ s.prim.sp = 0x7FFE) := by decide

theorem test_calla : -- V101
    after 0x0100 [0x49] { State.reset with prim.a := 0x3000 }
      (fun s => s.ip = 0x3000) := by decide

theorem test_int_redirected_at_level_1 : -- V104
    after 0x0900 [0x4A, 0x05]
      { State.reset with shad.a := 0x0006, t := 0x01, level := .one, interruptHandling := true }
      (fun s => s.shad.a = 0x0902 ∧ s.ip = 0x0830 ∧ s.level = .two) := by decide

theorem test_int_triple_fault : -- V108
    after 0x0900 [0x4A, 0x05]
      { State.reset with shad.a := 0x0006, t := 0x01, level := .two, interruptHandling := true }
      (fun s => s.ip = 0x0902 ∧ s.powerOn = false) := by decide

theorem test_ret_wraps : -- V114
    after 0x0100 [0x4B]
      (State.storeBytes { State.reset with prim.sp := 0xFFFF } 0xFFFF [0x34, 0x12])
      (fun s => s.prim.sp = 0x0001 ∧ s.ip = 0x1234) := by decide

theorem test_rti_from_level_1 : -- V115
    after 0x0852 [0x4C]
      { State.reset with shad.a := 0x0006, level := .one, interruptHandling := true }
      (fun s => s.ip = 0x0006 ∧ s.level = .zero) := by decide

theorem test_rti_at_level_0_faults : -- V117
    after 0x0100 [0x4C] { State.reset with shad.a := 0x5555, t := 0x01, interruptHandling := true }
      (fun s => s.shad.a = 0x0101 ∧ s.ip = 0x0800 ∧ s.level = .one) := by decide

/-! ### System and I/O -/

theorem test_ei : -- V120
    after 0x0100 [0x50] State.reset
      (fun s => s.interruptHandling = true) := by decide

theorem test_di : -- V121
    after 0x0100 [0x51] { State.reset with interruptHandling := true }
      (fun s => s.interruptHandling = false) := by decide

theorem test_eci : -- V122
    after 0x0100 [0x52] { State.reset with ic := 0xFF }
      (fun s => s.clockInterrupt = true ∧ s.ic = 0x00) := by decide

theorem test_dci : -- V123
    after 0x0100 [0x53] { State.reset with ic := 0x10, clockInterrupt := true }
      (fun s => s.clockInterrupt = false) := by decide

theorem test_rsv54 : -- V124
    after 0x0100 [0x54] State.reset
      (fun s => s.ip = 0x0101) := by decide

theorem test_rsv55 : -- V125
    after 0x0100 [0x55] State.reset
      (fun s => s.ip = 0x0101) := by decide

theorem test_in : -- V126
    after 0x0100 [0x60] { State.reset with prim.a := 0x1200, input := [0x41] }
      (fun s => s.prim.a = 0x1241 ∧ s.input = []) := by decide

theorem test_out : -- V127
    after 0x0100 [0x61] { State.reset with prim.a := 0x1241 }
      (fun s => s.output = [0x41]) := by decide

theorem test_hlt : -- V128
    after 0x0002 [0x70] { State.reset with ic := 0x01 }
      (fun s => s.powerOn = false) := by decide

theorem test_illegal_raises : -- V129
    after 0x0100 [0x0E] { State.reset with t := 0x01, interruptHandling := true }
      (fun s => s.shad.a = 0x0101 ∧ s.ip = 0x0800 ∧ s.level = .one) := by decide

theorem test_illegal_triple_fault : -- V133
    after 0x0100 [0x27] { State.reset with t := 0x01, level := .two, interruptHandling := true }
      (fun s => s.powerOn = false) := by decide

/-! ### Nibble operations -/

theorem test_mvi8 : -- V141
    after 0x0100 [0x83, 0x7F] { State.reset with prim.a := 0x0005 }
      (fun s => s.prim.a = 0x7F05) := by decide

theorem test_mvi8_bad_selector : -- V143
    after 0x0100 [0x8C, 0x05] { State.reset with t := 0x01, interruptHandling := true }
      (fun s => s.shad.a = 0x0102 ∧ s.ip = 0x0800 ∧ s.level = .one) := by decide

theorem test_mvi16 : -- V145
    after 0x0100 [0x92, 0x00, 0x80] State.reset
      (fun s => s.prim.sp = 0x8000) := by decide

theorem test_push8 : -- V148
    after 0x0100 [0xA0] { State.reset with prim.a := 0x12AB, prim.sp := 0x8000 }
      (fun s => s.prim.sp = 0x7FFF ∧ s.readByte 0x7FFF = 0xAB) := by decide

theorem test_push8_wraps : -- V150
    after 0x0100 [0xA3] { State.reset with prim.a := 0x12AB, prim.sp := 0x0000 }
      (fun s => s.prim.sp = 0xFFFF ∧ s.readByte 0xFFFF = 0x12) := by decide

theorem test_push16_sp : -- V153
    after 0x0100 [0xB2] { State.reset with prim.sp := 0x8000 }
      (fun s => s.prim.sp = 0x7FFE ∧ s.readByte 0x7FFE = 0x00 ∧ s.readByte 0x7FFF = 0x80) := by decide

theorem test_push16_wraps : -- V154
    after 0x0100 [0xB3] { State.reset with prim.sp := 0x0001, prim.bp := 0xBEEF }
      (fun s => s.prim.sp = 0xFFFF ∧ s.readByte 0xFFFF = 0xEF ∧ s.readByte 0x0000 = 0xBE) := by decide

theorem test_pop8 : -- V157
    after 0x0100 [0xC2]
      (State.writeByte { State.reset with prim.c := 0x1100, prim.sp := 0x7FFF } 0x7FFF 0xAB)
      (fun s => s.prim.c = 0x11AB ∧ s.prim.sp = 0x8000) := by decide

theorem test_pop8_wraps : -- V158
    after 0x0100 [0xC1]
      (State.writeByte { State.reset with prim.a := 0x0011, prim.sp := 0xFFFF } 0xFFFF 0x22)
      (fun s => s.prim.a = 0x2211 ∧ s.prim.sp = 0x0000) := by decide

theorem test_pop16 : -- V160
    after 0x0100 [0xD1]
      (State.storeBytes { State.reset with prim.sp := 0x7FFE } 0x7FFE [0x34, 0x12])
      (fun s => s.prim.c = 0x1234 ∧ s.prim.sp = 0x8000) := by decide

theorem test_pop16_sp : -- V162
    after 0x0100 [0xD2]
      (State.storeBytes { State.reset with prim.sp := 0x7FFE } 0x7FFE [0x00, 0x90])
      (fun s => s.prim.sp = 0x9000) := by decide

theorem test_adi8_carry : -- V165
    after 0x0100 [0xE2, 0xFF] { State.reset with prim.c := 0x0001 }
      (fun s => s.prim.c = 0x0000 ∧ s.prim.f = 0x03) := by decide

theorem test_adi8_zero : -- V167
    after 0x0100 [0xE0, 0x00] { State.reset with prim.a := 0x0000, prim.f := 0x02 }
      (fun s => s.prim.f = 0x01) := by decide

theorem test_adi16_sp : -- V172
    after 0x0100 [0xF2, 0xFC, 0xFF] { State.reset with prim.sp := 0x8000 }
      (fun s => s.prim.f = 0x02 ∧ s.prim.sp = 0x7FFC) := by decide

theorem test_adi16_wraps : -- V173
    after 0x0100 [0xF0, 0x01, 0x00] { State.reset with prim.a := 0xFFFF }
      (fun s => s.prim.a = 0x0000 ∧ s.prim.f = 0x03) := by decide

/-! ### The order of events in a step -/

theorem test_clock_interrupt_then_handler : -- V180
    after 0x0200 [0x00]
      (State.writeByte { State.reset with t := 0x01, interruptHandling := true, clockInterrupt := true } 0x0810 0x05)
      (fun s => s.prim.c = 0x0001 ∧ s.shad.a = 0x0200 ∧ s.ip = 0x0811 ∧ s.level = .one ∧ s.ic = 0x01) := by decide

theorem test_clock_triple_fault_still_runs : -- V184
    after 0x0200 [0x05]
      { State.reset with t := 0x01, level := .two, interruptHandling := true, clockInterrupt := true }
      (fun s => s.prim.c = 0x0001 ∧ s.ip = 0x0201 ∧ s.powerOn = false ∧ s.ic = 0x01) := by decide

theorem test_clock_interrupt_then_fault : -- V185
    after 0x0200 [0x05]
      (State.writeByte { State.reset with t := 0x01, interruptHandling := true, clockInterrupt := true } 0x0810 0x0E)
      (fun s => s.shad.a = 0x0811 ∧ s.ip = 0x0800 ∧ s.level = .two ∧ s.ic = 0x01) := by decide

/-! ### Ports that block: `20_memory.md` rule R78 -/

theorem test_in_blocks :
    (match step (State.reset.withFetchWord 8 0x60) with
    | .fault .inputBlocked => true
    | _ => false) = true := by decide

theorem test_out_blocks :
    (match step (State.withFetchWord { State.reset with sink := .accepts 0 } 8 0x61) with
    | .fault .outputBlocked => true
    | _ => false) = true := by decide

/-! ## Construction, the governor and the host's view -/

/-- What the host supplies where a test needs no more: the values of `State.reset`. -/
def bareLaunch : Launch where
  image := []
  rate := { num := 100, den := 1 }
  time := 0
  gaps := []
  input := []
  sink := .always
  inputExhausted := .stuck
  rtiRestoresIp := false

theorem test_reset_is_a_construction : State.construct bareLaunch = .ok State.reset := by decide +kernel

theorem test_image_stands_from_address_0 : -- R314, P1
    (match State.construct { bareLaunch with image := [0x80, 0x05, 0x70] } with
    | .ok s => s.readByte 0x0000 = 0x80 ∧ s.readByte 0x0002 = 0x70 ∧ s.readByte 0x0003 = 0x00
    | .error _ => false) = true := by decide +kernel

theorem test_governor_rate_10 : -- S10
    ClockRate.period { num := 10, den := 1 } = 100000 ∧ ClockRate.multiplier { num := 10, den := 1 } = 1 := by
  decide
theorem test_governor_rate_1000 : -- S10
    ClockRate.period { num := 1000, den := 1 } = 20000 ∧
      ClockRate.multiplier { num := 1000, den := 1 } = 20 := by decide
theorem test_governor_rate_half : -- S10
    ClockRate.period { num := 1, den := 2 } = 2000000 ∧ ClockRate.multiplier { num := 1, den := 2 } = 1 := by
  decide

theorem test_dump_reads_the_power_bit : -- S8
    State.reset.dump.powerOn = State.reset.isOn ∧ State.reset.isOn = true := by decide

theorem test_fetch_word_runs_first : -- the bytes of V140, as a table word
    (match step (State.reset.withFetchWord 16 0x0580) with
    | .next s => s.prim.a = 0x0005
    | _ => false) = true := by decide

/-! ## Witnesses: the hypotheses of each statement can be met together, each clause at a boundary -/

/-- The fault handler's state: level 1, interrupts on. -/
def inHandler : State := { State.reset with level := .one, interruptHandling := true }

/-- Interrupts on, at level 2. -/
def atLevelTwo : State := { State.reset with level := .two, interruptHandling := true }

/-- A clock interrupt is pending and unmasked. -/
def clockPending : State :=
  { State.reset with interruptHandling := true, clockInterrupt := true, t := 0x01 }

/-- A machine with an input byte, and an endpoint that takes one more byte. -/
def withPorts : State := { State.reset with input := [0x41], sink := .accepts 1 }

theorem test_witness_DecodeAfterEncode : (Instr.illegal 0x7F).wf = true ∧ (Instr.adi16 15 0xFFFF).wf = true := by
  decide

theorem test_witness_EncodeAfterDecode :
    decode [0x91, 0x34, 0x12, 0xFF] = .ok (.mvi16 1 0x1234, [0xFF]) := by decide

theorem test_witness_LengthIsFixedByTheOpcode :
    decode (0x94 :: [0x34, 0x12]) = .ok (.mvi16 4 0x1234, []) ∧ decode (0x27 :: [0x00]) = .ok (.illegal 0x27, [0x00]) ∧
      decode (0x01 :: [0x44]) = .ok (.add8 4 4, []) := by decide

theorem test_witness_StepRunsTheDecodedInstruction :
    State.reset.powerOn = true ∧ ¬ (State.reset.clockInterrupt = true ∧ State.reset.ic = 0x00) ∧
      decode [State.reset.readByte 0x0000, State.reset.readByte (0x0000 + 1), State.reset.readByte (0x0000 + 2)] =
        .ok (.nop, [0x00, 0x00]) := by decide

theorem test_witness_StepRunsTheDecodedInstruction_pending :
    clockPending.powerOn = true ∧ (clockPending.clockInterrupt = true ∧ clockPending.ic = 0x00) ∧
      decode [(clockPending.raiseInterrupt 0x01).readByte 0x0810, (clockPending.raiseInterrupt 0x01).readByte 0x0811,
        (clockPending.raiseInterrupt 0x01).readByte 0x0812] = .ok (.nop, [0x00, 0x00]) ∧
      (clockPending.raiseInterrupt 0x01).ip = 0x0810 := by decide

theorem test_witness_PoweredOffTakesNoStep : (State.powerOn { State.reset with powerOn := false }) = false := by
  decide

theorem test_witness_EveryStepCountsOnce :
    (∃ s', exec .incc State.reset = .next s') ∧ (∃ s', step State.reset = .next s') := ⟨⟨_, rfl⟩, ⟨_, rfl⟩⟩

theorem test_witness_StepCompletes_in : (State.reset.withFetchWord 8 0x60).powerOn = true ∧
    (State.reset.withFetchWord 8 0x60).toExecute.1 = .inp ∧ ¬ (State.reset.withFetchWord 8 0x60).CanInput := by
  unfold State.CanInput; decide

theorem test_witness_StepCompletes_out :
    (State.withFetchWord { State.reset with sink := .accepts 0 } 8 0x61).powerOn = true ∧
      (State.withFetchWord { State.reset with sink := .accepts 0 } 8 0x61).toExecute.1 = .out ∧
      ¬ (State.withFetchWord { State.reset with sink := .accepts 0 } 8 0x61).CanOutput := by
  unfold State.CanOutput; decide

theorem test_witness_StepCompletes_next : (withPorts.withFetchWord 8 0x61).powerOn = true ∧
    (withPorts.withFetchWord 8 0x61).toExecute.1 = .out ∧ (withPorts.withFetchWord 8 0x61).CanOutput ∧
    (withPorts.withFetchWord 8 0x60).toExecute.1 = .inp ∧ (withPorts.withFetchWord 8 0x60).CanInput := by
  unfold State.CanOutput State.CanInput; decide

theorem test_witness_ConstructionMeetsTheInvariant : ∃ s, State.construct bareLaunch = .ok s := ⟨_, rfl⟩

theorem test_witness_StepKeepsTheInvariant : State.reset.Inv ∧ ∃ s', step State.reset = .next s' :=
  ⟨by unfold State.Inv Bank.ReservedZero; decide, ⟨_, rfl⟩⟩

theorem test_witness_ConstructionState :
    bareLaunch.rate.valid = true ∧ (Launch.image { bareLaunch with image := [0x70] }).length ≤ 65536 ∧
      (0x0000 : Word).toNat < (Launch.image { bareLaunch with image := [0x70] }).length := by decide

/-- The longest image that fits. -/
theorem test_witness_ConstructionState_whole_memory : (List.replicate 65536 (0x70 : Byte)).length ≤ 65536 :=
  le_of_eq List.length_replicate

theorem test_witness_ConstructionRefusesABadRate :
    (Launch.rate { bareLaunch with rate := { num := 0, den := 1 } }).num ≤ 0 := by decide

theorem test_witness_GovernorConstants : (ClockRate.valid { num := 499, den := 10 }) = true ∧
    ∃ q : ℚ, q = ((499 : Int) : ℚ) / ((10 : Nat) : ℚ) := ⟨by decide, _, rfl⟩

theorem test_witness_TickProcedure :
    (0 : Nat) = State.reset.now + State.reset.gaps.headD 0 ∧ State.reset.stage + 1 < State.reset.multiplier := by decide

/-- The call that completes a cycle: at the deadline, and before it. -/
theorem test_witness_TickProcedure_wrap :
    State.reset.multiplier ≤ (State.stage { State.reset with stage := 1 }) + 1 ∧ State.reset.nextTick ≤ State.reset.now ∧
      State.reset.now < (State.nextTick { State.reset with stage := 1, nextTick := 1 }) := by decide

theorem test_witness_FourTicksAtRate100 : bareLaunch.rate = { num := 100, den := 1 } ∧ bareLaunch.gaps = [] ∧
    ∃ s, State.construct bareLaunch = .ok s := ⟨rfl, rfl, ⟨_, rfl⟩⟩

theorem test_witness_GovernorIsInvisible :
    State.reset.untimed = (State.untimed { State.reset with period := 40000, multiplier := 1, now := 7 }) := rfl

theorem test_witness_RaiseProcedure : State.reset.interruptHandling = false ∧
    (atLevelTwo.interruptHandling = true ∧ atLevelTwo.level = .two) ∧
    (inHandler.interruptHandling = true ∧ inHandler.level ≠ .two ∧ inHandler.level = .one) ∧
    (clockPending.interruptHandling = true ∧ clockPending.level ≠ .two ∧ clockPending.level = .zero) := by decide

theorem test_witness_IllegalOpcodeRaisesFaultZero :
    (State.reset.withFetchWord 8 0x0E).powerOn = true ∧
      ¬ ((State.reset.withFetchWord 8 0x0E).clockInterrupt = true ∧ (State.reset.withFetchWord 8 0x0E).ic = 0x00) ∧
      isIllegalOpcode ((State.reset.withFetchWord 8 0x0E).readByte (State.reset.withFetchWord 8 0x0E).ip) = true := by
  decide

theorem test_witness_BadOperandsOnlyRaise : (Instr.add8 4 0).operandsLegal = false := by decide

theorem test_witness_MaskedFaultsDoNothing : State.reset.interruptHandling = false ∧
    (Instr.movx 4).operandsLegal = false ∧ State.reset.level = .zero ∧ State.reset.rtiRestoresIp = false := by decide

theorem test_witness_ClockInterruptThenFaultNests :
    (clockPending.withFetchWord 8 0x1F).powerOn = true ∧ (clockPending.withFetchWord 8 0x1F).interruptHandling = true ∧
      (clockPending.withFetchWord 8 0x1F).level = .zero ∧ (clockPending.withFetchWord 8 0x1F).clockInterrupt = true ∧
      (clockPending.withFetchWord 8 0x1F).ic = 0x00 ∧
      (0x0810 : Word) = BitVec.ofNat 16 (16 + 2048 * (clockPending.withFetchWord 8 0x1F).t.toNat) ∧
      isIllegalOpcode ((clockPending.withFetchWord 8 0x1F).readByte 0x0810) = true := by decide

theorem test_witness_RtiResult : atLevelTwo.level = .two ∧ inHandler.level = .one ∧
    (State.reset.level = .zero ∧ State.reset.rtiRestoresIp = false) ∧
    ((State.level { State.reset with rtiRestoresIp := true }) = .zero ∧
      (State.rtiRestoresIp { State.reset with rtiRestoresIp := true }) = true) := by decide

theorem test_witness_PowerGoesOffOnlyByHaltOrTripleFault :
    ∃ s', step (State.reset.withFetchWord 8 0x70) = .next s' := ⟨_, rfl⟩

theorem test_witness_FlagsWrittenOnlyByTheListed :
    (∃ s', exec .swp State.reset = .next s') ∧
      (∃ s', exec .incc State.reset = .next s' ∧ Instr.incc ≠ .swp ∧ ¬ writesZ .incc ∧ ¬ writesCY .incc) ∧
      (∃ s', exec (.sub8 0 0) State.reset = .next s' ∧ ¬ writesCY (.sub8 0 0)) ∧
      (∃ s', exec (.mul8 0 4) State.reset = .next s' ∧ ¬ writesZ (.mul8 0 4)) :=
  ⟨⟨_, rfl⟩, ⟨_, rfl, by decide, id, id⟩, ⟨_, rfl, id⟩, ⟨_, rfl, id⟩⟩

theorem test_witness_MemoryWrittenOnlyByStores :
    (∃ s', exec (.push16 3) State.reset = .next s') ∧ (0x0001 : Word) ∉ storedTo State.reset (.push16 3) ∧
      (∃ s', step (State.reset.withFetchWord 8 0xB3) = .next s') ∧
      (0x0001 : Word) ∉ storedTo (State.reset.withFetchWord 8 0xB3).toExecute.2
        (State.reset.withFetchWord 8 0xB3).toExecute.1 :=
  ⟨⟨_, rfl⟩, by decide, ⟨_, rfl⟩, by decide⟩

theorem test_witness_ShadowBankChangedOnlyBySwapOrEntry :
    (∃ s', exec .nop State.reset = .next s') ∧ (∃ s', exec .swp State.reset = .next s') ∧
      (∃ s', exec (.int 0xFF) inHandler = .next s') := ⟨⟨_, rfl⟩, ⟨_, rfl⟩, ⟨_, rfl⟩⟩

theorem test_witness_ControlStateWrittenOnlyByItsInstructions :
    (∃ s', exec .nop { State.reset with powerOn := false } = .next s') ∧
      Instr.nop ≠ .wrt ∧ Instr.nop ≠ .ei ∧ Instr.nop ≠ .di ∧ Instr.nop ≠ .eci ∧ Instr.nop ≠ .dci ∧
      Instr.nop ≠ .inp ∧ Instr.nop ≠ .out := ⟨⟨_, rfl⟩, by decide⟩

theorem test_witness_CHighChangedOnlyByWordWrites :
    (∃ s', exec (.add8 2 2) State.reset = .next s') ∧ ¬ mayWriteCHigh (.add8 2 2) ∧
      (∃ s', exec (.mvi16 2 0xFFFF) State.reset = .next s') ∧ ¬ mayWriteCHigh (.mvi16 2 0xFFFF) :=
  ⟨⟨_, rfl⟩, id, ⟨_, rfl⟩, by unfold mayWriteCHigh; decide⟩

/-! The code ranges: 3 is the last legal code, 4 the first that faults. -/

theorem test_witness_LogicResult : ((3 : Code).toNat ≤ 3 ∧ (0 : Code).toNat ≤ 3) ∧
    3 < (4 : Code).toNat ∧ 3 < (15 : Code).toNat := by decide

theorem test_witness_MoveResult : ((3 : Code).toNat ≤ 3 ∧ (0 : Code).toNat ≤ 3) ∧
    3 < (4 : Code).toNat ∧ 3 < (15 : Code).toNat := by decide

theorem test_witness_MoveImmediateResult : (3 : Code).toNat ≤ 3 ∧ 3 < (4 : Code).toNat ∧ 3 < (15 : Code).toNat := by
  decide

theorem test_witness_PushResult : (3 : Code).toNat ≤ 3 ∧ 3 < (4 : Code).toNat ∧ 3 < (15 : Code).toNat := by
  decide

theorem test_witness_PopResult : (3 : Code).toNat ≤ 3 ∧ 3 < (4 : Code).toNat ∧ 3 < (15 : Code).toNat := by
  decide

theorem test_witness_AddImmediateResult : (3 : Code).toNat ≤ 3 ∧ 3 < (4 : Code).toNat ∧ 3 < (15 : Code).toNat := by
  decide

theorem test_witness_Add8Result : (3 : Code).toNat ≤ 3 ∧ (2 : Code).toNat ≤ 3 ∧
    (0 : Nat) = State.reset.prim.g8Nat 3 + State.reset.prim.g8Nat 2 ∧
    3 < (4 : Code).toNat := by decide

theorem test_witness_Add16Result : (3 : Code).toNat ≤ 3 ∧ (0 : Code).toNat ≤ 3 ∧
    (0 : Nat) = State.reset.prim.r16Nat 3 + State.reset.prim.r16Nat 0 ∧
    3 < (4 : Code).toNat := by decide

theorem test_witness_Sub8Result : (3 : Code).toNat ≤ 3 ∧ (0 : Code).toNat ≤ 3 ∧
    (0 : Int) = ((State.reset.prim.g8Nat 3 : Int) - State.reset.prim.g8Nat 0) % 256 ∧
    3 < (4 : Code).toNat := by decide

theorem test_witness_Sub16Result : (3 : Code).toNat ≤ 3 ∧ (0 : Code).toNat ≤ 3 ∧
    (0 : Int) = ((State.reset.prim.r16Nat 3 : Int) - State.reset.prim.r16Nat 0) % 65536 ∧
    3 < (4 : Code).toNat := by decide

theorem test_witness_NegResult : ((0 : Code).toNat = 0 ∧ (3 : Code).toNat ≤ 3) ∧
    ((1 : Code).toNat = 1 ∧ (1 : Code).toNat ≤ 1) ∧ 2 ≤ (2 : Code).toNat ∧
    ((0 : Code).toNat = 0 ∧ 3 < (4 : Code).toNat) ∧ ((1 : Code).toNat = 1 ∧ 1 < (2 : Code).toNat) := by decide

theorem test_witness_Rol8Result : ((3 : Code).toNat ≤ 3 ∧ (7 : Code).toNat ≤ 7 ∧
    (0 : Nat) = State.reset.prim.g8Nat 3) ∧ 7 < (8 : Code).toNat ∧ 3 < (4 : Code).toNat := by decide

theorem test_witness_Shf8Result : ((3 : Code).toNat ≤ 3 ∧ (0 : Nat) = State.reset.prim.g8Nat 3) ∧
    (7 : Code).toNat ≤ 7 ∧ ¬ (8 : Code).toNat ≤ 7 ∧ 3 < (4 : Code).toNat := by decide

theorem test_witness_Mul8Result : ((3 : Code).toNat ≤ 3 ∧ (3 : Code).toNat ≤ 3 ∧
      (0 : Nat) = State.reset.prim.g8Nat 3 * State.reset.prim.g8Nat 3) ∧
    ((3 : Code).toNat ≤ 3 ∧ (4 : Code).toNat = 4 ∧
      (0 : Nat) = State.reset.prim.a.toNat * State.reset.prim.g8Nat 3) ∧
    3 < (4 : Code).toNat ∧ 4 < (5 : Code).toNat := by decide

theorem test_witness_MovxResult : (1 : Byte).toNat = 1 ∧ (2 : Byte).toNat = 2 ∧ (3 : Byte).toNat = 3 ∧
    (0 : Byte).toNat = 0 ∧ 4 ≤ (4 : Byte).toNat ∧ 4 ≤ (255 : Byte).toNat := by decide

theorem test_witness_JumpResult : (0x34 : Nat) = (0x1234 : Word).toNat % 256 ∧
    (0x12 : Nat) = (0x1234 : Word).toNat / 256 := by decide

theorem test_witness_InResult : withPorts.input = 0x41 :: [] ∧
    (State.reset.input = [] ∧
      (State.inputExhausted { State.reset with inputExhausted := .value 0x00 }) = .value 0x00) ∧
    (State.reset.input = [] ∧ State.reset.inputExhausted = .stuck) := by decide

theorem test_witness_OutResult : (State.reset.CanOutput ∧ State.reset.sink = .always) ∧
    (withPorts.CanOutput ∧ withPorts.sink = .accepts (0 + 1)) ∧
    ¬ (State.CanOutput { State.reset with sink := .accepts 0 }) := by
  unfold State.CanOutput; decide

theorem test_witness_PushThenPopRestores : (2 : Code).toNat ≤ 3 := by decide


end Sys2Proof.Tests
end

section
/-!
PROOFS. The step around an instruction: `40_step_dispatch.md` rules R120 to R126 and R133.
-/
namespace Sys2Proof.Machine

/-! ## The fetch reads as many bytes as the encoding has -/

/-- The length of an encoding does not depend on the trailing bytes, `30_encoding.md` rule R95. -/
theorem encode_instrOf_length_const (op b1 b2 : Byte) :
    (encode (instrOf op b1 b2)).length = (encode (instrOf op 0 0)).length := by
  unfold instrOf
  split
  · unfold byteOperation
    split <;> rfl
  · unfold nibbleOperation
    split <;> rfl

/-- The encoding of what an opcode byte stands for is as long as the opcode byte says, rule R95. -/
theorem encode_instrOf_length (op b1 b2 : Byte) :
    (encode (instrOf op b1 b2)).length = instrLength op := by
  have bare : ∀ op : Byte, (encode (instrOf op 0 0)).length = instrLength op := by decide +kernel
  rw [encode_instrOf_length_const, bare]

/-- The fetch is the decoder at `ip`: it gives the decoded instruction, with `ip` after its encoding. -/
theorem fetchInstr_of_decode {s : State} {i : Instr} {rest : List Byte}
    (h : decode [s.readByte s.ip, s.readByte (s.ip + 1#16), s.readByte (s.ip + 2#16)] = .ok (i, rest)) :
    s.fetchInstr = (i, { s with ip := s.ip + BitVec.ofNat 16 (encode i).length }) := by
  obtain ⟨rest', hfetch⟩ := fetchInstr_instr s
  have hi : s.fetchInstr.1 = i := by
    rw [h] at hfetch
    cases hfetch
    rfl
  have hlen : (encode i).length = instrLength (s.readByte s.ip) := by
    rcases decode_three (s.readByte s.ip) (s.readByte (s.ip + 1#16)) (s.readByte (s.ip + 2#16)) []
      with ⟨_, e⟩ | ⟨_, e⟩ | ⟨_, e⟩ <;> rw [h] at e <;> cases e <;>
      exact encode_instrOf_length ..
  rw [hlen, ← fetchInstr_state, ← hi]

/-! ## What Tick and a raise leave alone -/

@[simp] theorem State.tick_ip (s : State) : s.tick.ip = s.ip := by
  obtain ⟨_, _, _, _, e⟩ := tick_eq s
  rw [e]

@[simp] theorem State.tick_ic (s : State) : s.tick.ic = s.ic := by
  obtain ⟨_, _, _, _, e⟩ := tick_eq s
  rw [e]

@[simp] theorem State.readByte_tick (s : State) (p : Word) : s.tick.readByte p = s.readByte p := by
  obtain ⟨_, _, _, _, e⟩ := tick_eq s
  rw [e]
  rfl

@[simp] theorem State.raiseInterrupt_ic (s : State) (code : Byte) :
    (s.raiseInterrupt code).ic = s.ic := by
  obtain ⟨_, _, _, _, e⟩ := raiseInterrupt_frame s code
  rw [e]

/-! ## Phases 1 to 3 and the whole step -/

/-- Phase 1 in the words of rule R120. -/
theorem clockPhase_eq_ite (s : State) :
    s.clockPhase = if s.clockInterrupt = true ∧ s.ic = 0x00 then s.raiseInterrupt 0x01 else s := by
  rcases clockPhase_cases s with ⟨pending, e⟩ | ⟨quiet, e⟩
  · rw [e, if_pos pending]
  · rw [e, if_neg quiet]

/-- Phases 1 to 3 in terms of the decoder: Tick moves neither `ip` nor the bytes it points at. -/
theorem toExecute_of_decode {s : State} {i : Instr} {rest : List Byte}
    (h : decode [s.clockPhase.readByte s.clockPhase.ip, s.clockPhase.readByte (s.clockPhase.ip + 1#16),
      s.clockPhase.readByte (s.clockPhase.ip + 2#16)] = .ok (i, rest)) :
    s.toExecute = (i, { s.clockPhase.tick with
      ip := s.clockPhase.ip + BitVec.ofNat 16 (encode i).length }) := by
  rw [← State.tick_ip]
  exact fetchInstr_of_decode (by simpa only [State.tick_ip, State.readByte_tick] using h)

/-- Settles O6: the fetch after Tick is the decoder at the `ip` that phase 1 leaves. -/
theorem stepRunsTheDecodedInstruction : Obligations.StepRunsTheDecodedInstruction := by
  intro s s1 i rest on hs1 hdecode
  obtain rfl : s1 = s.clockPhase := hs1.trans (clockPhase_eq_ite s).symm
  have hexec := toExecute_of_decode hdecode
  unfold step
  rw [if_pos on, hexec]
  rfl

/-- An illegal opcode byte decodes to itself, whatever follows it: `30_encoding.md` rule R98. -/
theorem decode_illegal {op : Byte} (b1 b2 : Byte) (h : isIllegalOpcode op = true) :
    decode [op, b1, b2] = .ok (.illegal op, [b1, b2]) := by
  have bare : ∀ op : Byte, isIllegalOpcode op = true → instrOf op 0 0 = .illegal op := by decide +kernel
  have one := Laws.EncodedShape.instrLength_illegal op h
  rw [← bare op h]
  simp only [decode, one]

/-- The effect of an illegal opcode byte, rule R133. -/
theorem exec_illegal (op : Byte) (s : State) : exec (.illegal op) s = .next (s.raiseInterrupt 0x00) := rfl

/-- Settles O20: the step of rule R120 on the one byte that an illegal opcode decodes from; neither Tick
nor the raise moves `ic`. -/
theorem illegalOpcodeRaisesFaultZero : Obligations.IllegalOpcodeRaisesFaultZero := by
  refine ⟨exec_illegal, fun s on quiet hop => ?_⟩
  have hstep := stepRunsTheDecodedInstruction s s _ _ on (if_neg quiet).symm (decode_illegal _ _ hop)
  rw [hstep, exec_illegal]
  simp [encode]

end Sys2Proof.Machine
end

section
/-!
PROOFS. The additions ADD8 and ADD16: `41_alu.md` rules R152 and R153.
-/
namespace Sys2Proof.Machine

/-- The two bytes of an instruction of format OP_XY: `x` is the high nibble of the second, `30_encoding.md`
rule R93. -/
theorem encodedAs_joinNibbles {i : Instr} {op : Byte} {x y : Code} (h : encode i = [op, joinNibbles x y]) :
    EncodedAs i [op.toNat, 16 * x.toNat + y.toNat] := by
  simp [EncodedAs, h]

/-! ## ADD8 -/

/-- ADD8 with two g8 codes is the addition to the half-register of the first, rule R152. -/
theorem exec_add8_of_g8 {x y : Code} {d r : Half} (hx : g8 x = some d) (hy : g8 y = some r) (s : State) :
    exec (.add8 x y) s = .next (s.addToHalf d (s.half r)) := by
  simp only [exec, execAdd8, hx, hy]

/-- ADD8 with a code outside the g8 class is the raise of code 0, `40_step_dispatch.md` rule R134. -/
theorem exec_add8_of_gt {x y : Code} (h : 3 < x.toNat ∨ 3 < y.toNat) (s : State) :
    exec (.add8 x y) s = .next (s.raiseInterrupt 0x00) := by
  rcases h with hx | hy
  · simp only [exec, execAdd8, g8_of_gt hx, State.badParameter]
  · simp only [exec, execAdd8, g8_of_gt hy, State.badParameter]
    cases g8 x <;> rfl

/-- Settles O33: with two g8 codes ADD8 is `addToHalf`, whose result, frame and flags `addToHalf_spec`
gives; any other code faults. -/
theorem add8Result : Obligations.Add8Result := by
  refine fun s x y sum =>
    ⟨encodedAs_joinNibbles (op := 0x01) rfl, fun hx hy hsum => ?_, fun h => exec_add8_of_gt h s⟩
  obtain ⟨d, hd⟩ := g8_of_le hx
  obtain ⟨r, hr⟩ := g8_of_le hy
  have operand : (s.half r).toNat = s.prim.g8Nat y := toNat_half_of_g8 hr s.prim
  rw [hsum, ← operand]
  exact ⟨_, exec_add8_of_g8 hd hr s, addToHalf_spec hd s (s.half r)⟩

/-! ## ADD16 -/

/-- ADD16 with two r16 codes is the addition to the register of the first, rule R153. -/
theorem exec_add16_of_r16 {x y : Code} {d r : Reg} (hx : r16 x = some d) (hy : r16 y = some r) (s : State) :
    exec (.add16 x y) s = .next (s.addToReg d (s.reg r)) := by
  simp only [exec, execAdd16, hx, hy]

/-- ADD16 with a code outside the r16 class is the raise of code 0, `40_step_dispatch.md` rule R134. -/
theorem exec_add16_of_gt {x y : Code} (h : 3 < x.toNat ∨ 3 < y.toNat) (s : State) :
    exec (.add16 x y) s = .next (s.raiseInterrupt 0x00) := by
  rcases h with hx | hy
  · simp only [exec, execAdd16, r16_of_gt hx, State.badParameter]
  · simp only [exec, execAdd16, r16_of_gt hy, State.badParameter]
    cases r16 x <;> rfl

/-- Settles O34: with two r16 codes ADD16 is `addToReg`, whose result, frame and flags `addToReg_spec`
gives; any other code faults. -/
theorem add16Result : Obligations.Add16Result := by
  refine fun s x y sum =>
    ⟨encodedAs_joinNibbles (op := 0x02) rfl, fun hx hy hsum => ?_, fun h => exec_add16_of_gt h s⟩
  obtain ⟨d, hd⟩ := r16_of_le hx
  obtain ⟨r, hr⟩ := r16_of_le hy
  have operand : (s.reg r).toNat = s.prim.r16Nat y := toNat_reg_of_r16 hr s.prim
  rw [hsum, ← operand]
  exact ⟨_, exec_add16_of_r16 hd hr s, addToReg_spec hd s (s.reg r)⟩

end Sys2Proof.Machine
end

section
/-!
PROOFS. The moves, loads and stores and the bank swap: `42_moves_loads_stores.md` rules R180 to R196.
-/
namespace Sys2Proof.Machine

/-! ## A register write leaves F, and a store leaves every other byte -/

/-- A write through a g8 code moves no flag, `10_state.md` rule R27. -/
theorem setHalf_writes_without_flags {k : Code} {d : Half} (h : g8 k = some d) (s : State) (v : Byte) :
    WroteG8 k v.toNat s (s.setHalf d v) ∧ (s.setHalf d v).prim.f = s.prim.f :=
  ⟨wroteG8_setHalf h s v, Bank.setHalf_f ..⟩

/-- A write through an r16 code moves no flag, `10_state.md` rule R27. -/
theorem setReg_writes_without_flags {k : Code} {d : Reg} (h : r16 k = some d) (s : State) (v : Word) :
    WroteR16 k v.toNat s (s.setReg d v) ∧ (s.setReg d v).prim.f = s.prim.f :=
  ⟨wroteR16_setReg h s v, Bank.setReg_f ..⟩

/-- The frame of a byte store, `20_memory.md` rule R62. -/
theorem bytesOnly_writeByte (s : State) (a : Word) (v : Byte) : BytesOnly [a] s (s.writeByte a v) :=
  ⟨rfl, fun _ outside => State.readByte_writeByte_other s v (by simpa using outside)⟩

/-- The frame of a word store, `20_memory.md` rule R64. -/
theorem bytesOnly_writeWord (s : State) (a v : Word) : BytesOnly [a, a + 1#16] s (s.writeWord a v) := by
  refine ⟨rfl, fun b outside => ?_⟩
  obtain ⟨notLow, notHigh⟩ : b ≠ a ∧ b ≠ a + 1#16 := by simpa using outside
  exact State.readByte_writeWord_other s v notLow notHigh

/-! ## MOV8 and MOV16 -/

/-- MOV8 with two g8 codes copies the half-register of the second to that of the first, rule R181. -/
theorem exec_mov8_of_g8 {x y : Code} {d r : Half} (hx : g8 x = some d) (hy : g8 y = some r) (s : State) :
    exec (.mov8 x y) s = .next (s.setHalf d (s.half r)) := by
  simp only [exec, execMov8, hx, hy]

/-- MOV8 with a code outside the g8 class is the raise of code 0, `40_step_dispatch.md` rule R134. -/
theorem exec_mov8_of_gt {x y : Code} (h : 3 < x.toNat ∨ 3 < y.toNat) (s : State) :
    exec (.mov8 x y) s = .next (s.raiseInterrupt 0x00) := by
  rcases h with hx | hy
  · simp only [exec, execMov8, g8_of_gt hx, State.badParameter]
  · simp only [exec, execMov8, g8_of_gt hy, State.badParameter]
    cases g8 x <;> rfl

/-- MOV16 with two r16 codes copies the register of the second to that of the first, rule R182. -/
theorem exec_mov16_of_r16 {x y : Code} {d r : Reg} (hx : r16 x = some d) (hy : r16 y = some r) (s : State) :
    exec (.mov16 x y) s = .next (s.setReg d (s.reg r)) := by
  simp only [exec, execMov16, hx, hy]

/-- MOV16 with a code outside the r16 class is the raise of code 0, `40_step_dispatch.md` rule R134. -/
theorem exec_mov16_of_gt {x y : Code} (h : 3 < x.toNat ∨ 3 < y.toNat) (s : State) :
    exec (.mov16 x y) s = .next (s.raiseInterrupt 0x00) := by
  rcases h with hx | hy
  · simp only [exec, execMov16, r16_of_gt hx, State.badParameter]
  · simp only [exec, execMov16, r16_of_gt hy, State.badParameter]
    cases r16 x <;> rfl

/-- Settles O43: two codes of the class select a source, whose value is the spec's, and a destination,
which is written without flags; any other code faults. -/
theorem moveResult : Obligations.MoveResult := by
  refine fun s x y =>
    ⟨⟨encodedAs_joinNibbles (op := 0x20) rfl, encodedAs_joinNibbles (op := 0x21) rfl⟩,
      fun hx hy => ⟨?mov8, ?mov16⟩, fun h => ⟨exec_mov8_of_gt h s, exec_mov16_of_gt h s⟩⟩
  case mov8 =>
    obtain ⟨d, hd⟩ := g8_of_le hx
    obtain ⟨r, hr⟩ := g8_of_le hy
    have source : (s.half r).toNat = s.prim.g8Nat y := toNat_half_of_g8 hr s.prim
    rw [← source]
    exact ⟨_, exec_mov8_of_g8 hd hr s, setHalf_writes_without_flags hd s (s.half r)⟩
  case mov16 =>
    obtain ⟨d, hd⟩ := r16_of_le hx
    obtain ⟨r, hr⟩ := r16_of_le hy
    have source : (s.reg r).toNat = s.prim.r16Nat y := toNat_reg_of_r16 hr s.prim
    rw [← source]
    exact ⟨_, exec_mov16_of_r16 hd hr s, setReg_writes_without_flags hd s (s.reg r)⟩

/-! ## The loads: rules R184, R185, R191 and R192 -/

/-- A byte load writes A-low, which is code 0 of the g8 class. -/
theorem loadByte_writes_aLow (s : State) (v : Byte) :
    WroteG8 0 v.toNat s (s.setHalf .aLow v) ∧ (s.setHalf .aLow v).prim.f = s.prim.f :=
  setHalf_writes_without_flags rfl s v

/-- A word load writes A, which is code 0 of the r16 class, with the little-endian datum of
`20_memory.md` rule R63. -/
theorem loadWord_writes_a (s : State) (a : Word) :
    WroteR16 0 (s.wordNat a) s (s.setReg .a (s.readWord a)) ∧
      (s.setReg .a (s.readWord a)).prim.f = s.prim.f := by
  rw [← toNat_readWord]
  exact setReg_writes_without_flags rfl s (s.readWord a)

/-- Settles O45: each load is `loadByte_writes_aLow` or `loadWord_writes_a` at its effective address. -/
theorem loadResult : Obligations.LoadResult := fun s d =>
  ⟨⟨rfl, rfl, rfl, rfl⟩, toNat_eaBp s d,
    ⟨_, rfl, loadByte_writes_aLow s (s.readByte (s.eaBp d))⟩,
    ⟨_, rfl, loadByte_writes_aLow s (s.readByte s.prim.c)⟩,
    ⟨_, rfl, loadWord_writes_a s (s.eaBp d)⟩,
    ⟨_, rfl, loadWord_writes_a s s.prim.c⟩⟩

/-! ## The stores: rules R186, R187, R195 and R196 -/

/-- A byte store leaves A-low at its address and touches nothing else. -/
theorem storeByte_leaves_aLow (s : State) (a : Word) :
    BytesOnly [a] s (s.writeByte a (s.half .aLow)) ∧
      ((s.writeByte a (s.half .aLow)).readByte a).toNat = s.prim.a.toNat % 256 := by
  refine ⟨bytesOnly_writeByte s a _, ?_⟩
  rw [State.readByte_writeByte_same]
  exact toNat_lo s.prim.a

/-- A word store leaves A-low at its address and A-high at the next, and touches nothing else. -/
theorem storeWord_leaves_a (s : State) (a : Word) :
    BytesOnly [a, a + 1#16] s (s.writeWord a (s.reg .a)) ∧
      ((s.writeWord a (s.reg .a)).readByte a).toNat = s.prim.a.toNat % 256 ∧
      ((s.writeWord a (s.reg .a)).readByte (a + 1#16)).toNat = s.prim.a.toNat / 256 := by
  refine ⟨bytesOnly_writeWord s a _, ?_, ?_⟩
  · rw [State.readByte_writeWord_low]
    exact toNat_lo s.prim.a
  · rw [State.readByte_writeWord_high]
    exact toNat_hi s.prim.a

/-- Settles O46: each store is `storeByte_leaves_aLow` or `storeWord_leaves_a` at its effective address. -/
theorem storeResult : Obligations.StoreResult := fun s d =>
  ⟨⟨rfl, rfl, rfl, rfl⟩, toNat_eaBp s d,
    ⟨_, rfl, storeByte_leaves_aLow s (s.eaBp d)⟩,
    ⟨_, rfl, storeByte_leaves_aLow s s.prim.c⟩,
    ⟨_, rfl, storeWord_leaves_a s (s.eaBp d)⟩,
    ⟨_, rfl, storeWord_leaves_a s s.prim.c⟩⟩

/-! ## SWP, RDT and WRT -/

/-- SWP exchanges the two banks, rules R28 and R190. -/
theorem exec_swp (s : State) : exec .swp s = .next { s with prim := s.shad, shad := s.prim } := rfl

/-- Settles O47: two exchanges of the banks by `exec_swp` give back the state. -/
theorem swapResult : Obligations.SwapResult :=
  ⟨rfl, fun s => ⟨_, exec_swp s, rfl, rfl, rfl, fun _ => rfl, exec_swp _⟩⟩

/-- RDT writes `t` to A-low, rule R193. -/
theorem exec_rdt (s : State) : exec .rdt s = .next (s.setHalf .aLow s.t) := rfl

/-- WRT writes A-low to `t`, rule R194. -/
theorem exec_wrt (s : State) : exec .wrt s = .next { s with t := s.half .aLow } := rfl

/-- Settles O48: RDT writes A-low as a byte load does, with `t` for the datum; WRT writes `t` only. -/
theorem tableRegisterResult : Obligations.TableRegisterResult :=
  ⟨⟨rfl, rfl⟩, fun s =>
    ⟨⟨_, exec_rdt s, loadByte_writes_aLow s s.t⟩,
      ⟨_, exec_wrt s, toNat_lo s.prim.a, rfl, fun _ => rfl⟩⟩⟩

end Sys2Proof.Machine
end

section
/-!
PROOFS. The jumps and the calls: `43_control_transfer.md` rules R210 to R217.
-/
namespace Sys2Proof.Machine

/-- The three bytes of an instruction with an opcode byte and a 16-bit immediate: the low byte of the
immediate comes first, `30_encoding.md` rule R92. -/
theorem encodedAs_lo_hi {i : Instr} {op : Byte} {w : Word} (h : encode i = [op, lo w, hi w]) :
    EncodedAs i [op.toNat, w.toNat % 256, w.toNat / 256] := by
  simp [EncodedAs, h]

/-! ## A jump under a condition writes `ip` and nothing else, taken or not -/

/-- A jump taken when the bit is 1, rules R212 and R213. -/
theorem jump_of_set (b : Bool) (s : State) (w : Word) :
    (if b then s.jump w else s) = { s with ip := if b = true then w else s.ip } := by
  cases b
  case false => rfl
  case true => rfl

/-- A jump taken when the bit is 0, rules R214 and R215. -/
theorem jump_of_clear (b : Bool) (s : State) (w : Word) :
    (if b then s else s.jump w) = { s with ip := if b = false then w else s.ip } := by
  cases b
  case false => rfl
  case true => rfl

/-! ## The effect of each jump and call -/

/-- JMP jumps to its immediate, rule R211. -/
theorem exec_jmp (w : Word) (s : State) : exec (.jmp w) s = .next { s with ip := w } := rfl

/-- JZ is the jump taken when Z, bit 0 of F, is 1, rule R212. -/
theorem exec_jz (w : Word) (s : State) :
    exec (.jz w) s = .next { s with ip := if s.prim.f.getLsbD 0 = true then w else s.ip } :=
  congrArg Host.Outcome.next (jump_of_set s.prim.z s w)

/-- JC is the jump taken when CY, bit 1 of F, is 1, rule R213. -/
theorem exec_jc (w : Word) (s : State) :
    exec (.jc w) s = .next { s with ip := if s.prim.f.getLsbD 1 = true then w else s.ip } :=
  congrArg Host.Outcome.next (jump_of_set s.prim.cy s w)

/-- JNZ is the jump taken when Z, bit 0 of F, is 0, rule R214. -/
theorem exec_jnz (w : Word) (s : State) :
    exec (.jnz w) s = .next { s with ip := if s.prim.f.getLsbD 0 = false then w else s.ip } :=
  congrArg Host.Outcome.next (jump_of_clear s.prim.z s w)

/-- JNC is the jump taken when CY, bit 1 of F, is 0, rule R215. -/
theorem exec_jnc (w : Word) (s : State) :
    exec (.jnc w) s = .next { s with ip := if s.prim.f.getLsbD 1 = false then w else s.ip } :=
  congrArg Host.Outcome.next (jump_of_clear s.prim.cy s w)

/-- CALL jumps to its immediate and pushes nothing, rule R216. -/
theorem exec_call (w : Word) (s : State) : exec (.call w) s = .next { s with ip := w } := rfl

/-- CALLA jumps to A and pushes nothing, rule R217. -/
theorem exec_calla (s : State) : exec .calla s = .next { s with ip := s.prim.a } := rfl

/-- Settles O49: the bytes of each immediate are little-endian by `encodedAs_lo_hi`; a conditional jump is
`jump_of_set` or `jump_of_clear` on its flag, so that one not taken writes back the `ip` it had. -/
theorem jumpResult : Obligations.JumpResult := by
  rintro s w low high rfl rfl
  refine ⟨⟨?jmp, ?jz, ?jc, ?jnz, ?jnc, ?call, rfl⟩, exec_jmp w s, exec_jz w s, exec_jc w s, exec_jnz w s,
    exec_jnc w s, exec_call w s, exec_calla s⟩
  case jmp => exact encodedAs_lo_hi (op := 0x40) rfl
  case jz => exact encodedAs_lo_hi (op := 0x41) rfl
  case jc => exact encodedAs_lo_hi (op := 0x42) rfl
  case jnz => exact encodedAs_lo_hi (op := 0x43) rfl
  case jnc => exact encodedAs_lo_hi (op := 0x44) rfl
  case call => exact encodedAs_lo_hi (op := 0x48) rfl

end Sys2Proof.Machine
end

section
/-!
PROOFS. The pushes, the pops and the immediate adds: `45_nibble_ops.md` rules R253 to R258.
-/
namespace Sys2Proof.Machine

/-- The opcode byte of a nibble operation is its family in the high nibble and its selector in the low
one, `30_encoding.md` rule R92; the immediate, if any, follows. -/
theorem encodedAs_nibble {i : Instr} {sel : Code} (family : Code) (tail : List Byte)
    (h : encode i = joinNibbles family sel :: tail) :
    EncodedAs i ((16 * family.toNat + sel.toNat) :: tail.map BitVec.toNat) := by
  simp [EncodedAs, h]

/-! ## The immediate adds: rules R257 and R258 -/

/-- ADI8 with a g8 selector is the addition of its immediate to that half-register, rule R257. -/
theorem exec_adi8_of_g8 {sel : Code} {d : Half} (h : g8 sel = some d) (b : Byte) (s : State) :
    exec (.adi8 sel b) s = .next (s.addToHalf d b) := by
  simp only [exec, execAdi8, h]

/-- ADI16 with an r16 selector is the addition of its immediate to that register, rule R258. -/
theorem exec_adi16_of_r16 {sel : Code} {d : Reg} (h : r16 sel = some d) (w : Word) (s : State) :
    exec (.adi16 sel w) s = .next (s.addToReg d w) := by
  simp only [exec, execAdi16, h]

/-- An immediate add with a selector above 3 is the raise of code 0, rule R250. -/
theorem exec_adi_of_gt {sel : Code} (h : 3 < sel.toNat) (b : Byte) (w : Word) (s : State) :
    exec (.adi8 sel b) s = .next (s.raiseInterrupt 0x00) ∧
      exec (.adi16 sel w) s = .next (s.raiseInterrupt 0x00) := by
  constructor
  · simp only [exec, execAdi8, g8_of_gt h, State.badParameter]
  · simp only [exec, execAdi16, r16_of_gt h, State.badParameter]

/-- Settles O58: the additions are those of ADD8 and ADD16, which `addToHalf_spec` and `addToReg_spec`
describe, with the immediate for the second operand; a selector above 3 faults. -/
theorem addImmediateResult : Obligations.AddImmediateResult := by
  refine fun s sel b w => ⟨⟨encodedAs_nibble 0xE [b] rfl, ?adi16Bytes⟩,
    fun hsel => ⟨?adi8, ?adi16⟩, fun hsel => exec_adi_of_gt hsel b w s⟩
  case adi16Bytes => simpa using encodedAs_nibble 0xF [lo w, hi w] rfl
  case adi8 =>
    obtain ⟨d, hd⟩ := g8_of_le hsel
    exact ⟨_, _, rfl, exec_adi8_of_g8 hd b s, addToHalf_spec hd s b⟩
  case adi16 =>
    obtain ⟨d, hd⟩ := r16_of_le hsel
    exact ⟨_, _, rfl, exec_adi16_of_r16 hd w s, addToReg_spec hd s w⟩

/-! ## The pushes: rules R253 and R254 -/

/-- PUSH8 with a g8 selector pushes that half-register, rule R253. -/
theorem exec_push8_of_g8 {sel : Code} {r : Half} (h : g8 sel = some r) (s : State) :
    exec (.push8 sel) s = .next (s.pushByte (s.half r)) := by
  simp only [exec, execPush8, h]

/-- PUSH16 with an r16 selector pushes that register as it was before SP moves, rule R254. -/
theorem exec_push16_of_r16 {sel : Code} {r : Reg} (h : r16 sel = some r) (s : State) :
    exec (.push16 sel) s = .next (s.pushWord (s.reg r)) := by
  simp only [exec, execPush16, h]

/-- A push with a selector above 3 is the raise of code 0, rule R250. -/
theorem exec_push_of_gt {sel : Code} (h : 3 < sel.toNat) (s : State) :
    exec (.push8 sel) s = .next (s.raiseInterrupt 0x00) ∧
      exec (.push16 sel) s = .next (s.raiseInterrupt 0x00) := by
  constructor
  · simp only [exec, execPush8, g8_of_gt h, State.badParameter]
  · simp only [exec, execPush16, r16_of_gt h, State.badParameter]

@[simp] theorem State.pushByte_sp (s : State) (v : Byte) : (s.pushByte v).prim.sp = s.prim.sp - 1#16 := rfl

@[simp] theorem State.pushWord_sp (s : State) (v : Word) : (s.pushWord v).prim.sp = s.prim.sp - 2#16 := rfl

/-- The pushed byte is at the new SP. -/
@[simp] theorem State.readByte_pushByte_same (s : State) (v : Byte) :
    (s.pushByte v).readByte (s.prim.sp - 1#16) = v :=
  State.readByte_writeByte_same ..

/-- The low byte of a pushed word is at the new SP. -/
@[simp] theorem State.readByte_pushWord_low (s : State) (v : Word) :
    (s.pushWord v).readByte (s.prim.sp - 2#16) = lo v :=
  State.readByte_writeWord_low ..

/-- The high byte of a pushed word is one above the new SP. -/
@[simp] theorem State.readByte_pushWord_high (s : State) (v : Word) :
    (s.pushWord v).readByte (s.prim.sp - 2#16 + 1#16) = hi v :=
  State.readByte_writeWord_high ..

/-- A byte push changes no byte of memory but the one below the old SP. -/
theorem sameBytesBut_pushByte (s : State) (v : Byte) :
    SameBytesBut [s.prim.sp - 1#16] s (s.pushByte v) :=
  (bytesOnly_writeByte (s.setReg .sp (s.prim.sp - 1#16)) (s.prim.sp - 1#16) v).2

/-- A word push changes no byte of memory but the two below the old SP. -/
theorem sameBytesBut_pushWord (s : State) (v : Word) :
    SameBytesBut [s.prim.sp - 2#16, s.prim.sp - 1#16] s (s.pushWord v) := by
  have second : s.prim.sp - 2#16 + 1#16 = s.prim.sp - 1#16 := by bv_omega
  rw [← second]
  exact (bytesOnly_writeWord (s.setReg .sp (s.prim.sp - 2#16)) (s.prim.sp - 2#16) v).2

/-- Settles O55: the operand is the register before SP moves, and the push stores its bytes at and above
the new SP, by the laws of `pushByte` and `pushWord`; a selector above 3 faults. -/
theorem pushResult : Obligations.PushResult := by
  refine fun s sel => ⟨⟨encodedAs_nibble 0xA [] rfl, encodedAs_nibble 0xB [] rfl⟩,
    fun hsel => ⟨?push8, ?push16⟩, fun hsel => exec_push_of_gt hsel s⟩
  case push8 =>
    obtain ⟨r, hr⟩ := g8_of_le hsel
    have operand : (s.half r).toNat = s.prim.g8Nat sel := toNat_half_of_g8 hr s.prim
    refine ⟨_, exec_push8_of_g8 hr s, ?_, ?_, pushByte_eq s _, sameBytesBut_pushByte s _⟩
    · rw [State.pushByte_sp]
      bv_omega
    · rw [State.pushByte_sp, State.readByte_pushByte_same, operand]
  case push16 =>
    obtain ⟨r, hr⟩ := r16_of_le hsel
    have operand : (s.reg r).toNat = s.prim.r16Nat sel := toNat_reg_of_r16 hr s.prim
    refine ⟨_, exec_push16_of_r16 hr s, ?_, ?_, ?_, pushWord_eq s _, sameBytesBut_pushWord s _⟩
    · rw [State.pushWord_sp]
      bv_omega
    · rw [State.pushWord_sp, State.readByte_pushWord_low, toNat_lo, operand]
    · rw [State.pushWord_sp, ← operand, ← toNat_hi]
      exact congrArg BitVec.toNat (State.readByte_pushWord_high s (s.reg r))

/-! ## The pops: rules R255 and R256 -/

/-- POP8 with a g8 selector raises SP and then writes the byte read at the old SP, rule R255. -/
theorem exec_pop8_of_g8 {sel : Code} {d : Half} (h : g8 sel = some d) (s : State) :
    exec (.pop8 sel) s =
      .next ((s.setReg .sp (s.prim.sp + 1#16)).setHalf d (s.readByte s.prim.sp)) := by
  simp only [exec, execPop8, h, State.reg, Bank.reg]

/-- POP16 with an r16 selector raises SP and then writes the word read at the old SP, rule R256. -/
theorem exec_pop16_of_r16 {sel : Code} {d : Reg} (h : r16 sel = some d) (s : State) :
    exec (.pop16 sel) s =
      .next ((s.setReg .sp (s.prim.sp + 2#16)).setReg d (s.readWord s.prim.sp)) := by
  simp only [exec, execPop16, h, State.reg, Bank.reg]

/-- A pop with a selector above 3 is the raise of code 0, rule R250. -/
theorem exec_pop_of_gt {sel : Code} (h : 3 < sel.toNat) (s : State) :
    exec (.pop8 sel) s = .next (s.raiseInterrupt 0x00) ∧
      exec (.pop16 sel) s = .next (s.raiseInterrupt 0x00) := by
  constructor
  · simp only [exec, execPop8, g8_of_gt h, State.badParameter]
  · simp only [exec, execPop16, r16_of_gt h, State.badParameter]

/-- A register write before a change of the primary bank alone is part of that change. -/
theorem PrimOnly.of_setReg {r : Reg} {v : Word} {s s' : State} (h : PrimOnly (s.setReg r v) s') :
    PrimOnly s s' := by
  obtain ⟨frame, bytes⟩ := h
  exact ⟨frame, bytes⟩

/-- Settles O56: a pop is a move of SP and then a write of the destination, so the frame of the write is
taken against the bank with the new SP, and SP itself is a destination like any other. -/
theorem popResult : Obligations.PopResult := by
  refine fun s sel => ⟨⟨encodedAs_nibble 0xC [] rfl, encodedAs_nibble 0xD [] rfl⟩,
    fun hsel => ⟨?pop8, ?pop16⟩, fun hsel => exec_pop_of_gt hsel s⟩
  case pop8 =>
    obtain ⟨d, hd⟩ := g8_of_le hsel
    obtain ⟨⟨value, frame, rest⟩, flags⟩ := setHalf_writes_without_flags hd
      (s.setReg .sp (s.prim.sp + 1#16)) (s.readByte s.prim.sp)
    exact ⟨_, s.prim.sp + 1#16, exec_pop8_of_g8 hd s, BitVec.toNat_add .., value, frame, flags,
      rest.of_setReg⟩
  case pop16 =>
    obtain ⟨d, hd⟩ := r16_of_le hsel
    obtain ⟨⟨value, frame, rest⟩, flags⟩ := setReg_writes_without_flags hd
      (s.setReg .sp (s.prim.sp + 2#16)) (s.readWord s.prim.sp)
    exact ⟨_, s.prim.sp + 2#16, exec_pop16_of_r16 hd s, BitVec.toNat_add ..,
      value.trans (toNat_readWord s s.prim.sp), frame, flags, rest.of_setReg⟩

end Sys2Proof.Machine
end

section
/-!
PROOFS. The raise procedure: `60_exceptions.md` rules R272 to R274 and R276.
-/
namespace Sys2Proof.Machine

/-! ## One equation per branch of rule R272 -/

/-- The mask is tested before the level: masked, even a raise at level 2 does nothing (decision D28). -/
theorem raiseInterrupt_of_masked {s : State} (masked : s.interruptHandling = false) (code : Byte) :
    s.raiseInterrupt code = s := by
  simp [State.raiseInterrupt, masked]

/-- The triple fault, rule R285. -/
theorem raiseInterrupt_at_two {s : State} (unmasked : s.interruptHandling = true)
    (level : s.level = .two) (code : Byte) : s.raiseInterrupt code = { s with powerOn := false } := by
  simp [State.raiseInterrupt, unmasked, level]

/-- At level 0 no code is remapped. -/
theorem raiseInterrupt_at_zero {s : State} (unmasked : s.interruptHandling = true)
    (level : s.level = .zero) (code : Byte) : s.raiseInterrupt code = s.enterHandler code .one := by
  simp [State.raiseInterrupt, unmasked, level]

/-- At level 1 the code goes through the double-fault redirection. -/
theorem raiseInterrupt_at_one {s : State} (unmasked : s.interruptHandling = true)
    (level : s.level = .one) (code : Byte) :
    s.raiseInterrupt code = s.enterHandler (redirect code) .two := by
  simp [State.raiseInterrupt, unmasked, level]

/-! ## The vector address and the redirection as numbers -/

/-- The vector address as a number, rule R274; its reduction is the spec's decision D23. -/
theorem toNat_vectorAddress (code t : Byte) :
    (vectorAddress code t).toNat = (16 * code.toNat + 2048 * t.toNat) % 65536 :=
  BitVec.toNat_ofNat ..

/-- Double-fault redirection on the number of the code, rule R273. -/
theorem toNat_redirect (code : Byte) :
    (redirect code).toNat = if code.toNat ∈ [0, 2, 3] then code.toNat else 3 := by
  have soft : (code = 0x00 ∨ code = 0x02 ∨ code = 0x03) ↔ code.toNat ∈ [0, 2, 3] := by
    simp [← BitVec.toNat_inj]
  unfold redirect
  simp only [soft]
  split <;> rfl

/-! ## The procedure -/

/-- Settles O19: below level 2 the raise is an entry, which writes the three fields of rule R276; the
level decides whether the code reaches the vector as it is or redirected. -/
theorem raiseProcedure : Obligations.RaiseProcedure := by
  refine fun s code => ⟨fun masked => raiseInterrupt_of_masked masked code,
    fun unmasked two => raiseInterrupt_at_two unmasked two code, fun unmasked below => ?_⟩
  cases level : s.level with
  | zero =>
    exact ⟨vectorAddress code s.t, .one, code.toNat, raiseInterrupt_at_zero unmasked level code,
      toNat_vectorAddress code s.t, fun _ => ⟨rfl, rfl⟩, nofun⟩
  | one =>
    exact ⟨vectorAddress (redirect code) s.t, .two, (redirect code).toNat,
      raiseInterrupt_at_one unmasked level code, toNat_vectorAddress (redirect code) s.t, nofun,
      fun _ => ⟨rfl, toNat_redirect code⟩⟩
  | two => exact absurd level below

end Sys2Proof.Machine
end

section
/-!
PROOFS. Construction and the clock governor's constants: `70_reset_and_hazards.md` rules R313 and R330.
-/
namespace Sys2Proof

/-! ## Valid clock rates -/

/-- A rate is valid exactly when numerator and denominator are both positive, rule R9. -/
theorem ClockRate.valid_iff (r : ClockRate) : r.valid = true ↔ 0 < r.num ∧ 0 < r.den := by
  simp [ClockRate.valid]

/-- The numerator of a valid rate is a natural number, the one the governor divides by. -/
theorem ClockRate.toNat_num {r : ClockRate} (h : r.valid = true) : (r.num.toNat : ℚ) = r.num := by
  obtain ⟨hnum, -⟩ := r.valid_iff.mp h
  exact_mod_cast Int.toNat_of_nonneg hnum.le

/-! ## The rational quotients of rule R330 as natural number divisions -/

/-- `(1000000 / CLOCK_RATE) / 20000` is `50 / CLOCK_RATE`; its floor is the model's division. -/
theorem ClockRate.floor_periods {r : ClockRate} (h : r.valid = true) :
    ⌊1000000 / ((r.num : ℚ) / r.den) / 20000⌋ = ((50 * r.den / r.num.toNat : ℕ) : ℤ) := by
  have quotient : 1000000 / ((r.num : ℚ) / r.den) / 20000 = ((50 * r.den : ℕ) : ℚ) / (r.num.toNat : ℚ) := by
    rw [ClockRate.toNat_num h, div_div_eq_mul_div]
    push_cast
    ring
  rw [quotient, Rat.floor_natCast_div_natCast, Int.natCast_ediv]

/-- The floor of `CLOCK_RATE / 50` is the model's division. -/
theorem ClockRate.floor_fiftieth {r : ClockRate} (h : r.valid = true) :
    ⌊(r.num : ℚ) / r.den / 50⌋ = ((r.num.toNat / (50 * r.den) : ℕ) : ℤ) := by
  have quotient : (r.num : ℚ) / r.den / 50 = (r.num.toNat : ℚ) / ((50 * r.den : ℕ) : ℚ) := by
    rw [ClockRate.toNat_num h, div_div]
    push_cast
    ring
  rw [quotient, Rat.floor_natCast_div_natCast, Int.natCast_ediv]

end Sys2Proof

namespace Sys2Proof.Machine

/-! ## The governor's constants and the refusal of a bad rate -/

/-- Settles O15: both constants are a maximum over one of the two floors above. -/
theorem governorConstants : Obligations.GovernorConstants := by
  rintro r valid _ rfl
  rw [ClockRate.floor_periods valid, ClockRate.floor_fiftieth valid]
  exact ⟨by simp [ClockRate.period], by simp [ClockRate.multiplier]⟩

/-- Construction checks the rate before anything else, rule R313. -/
theorem construct_of_not_valid {l : Launch} (h : ¬ l.rate.valid = true) :
    State.construct l = .error .badClockRate := by
  simp [State.construct, h]

/-- Settles O14: a numerator of zero or less is not a valid rate. -/
theorem constructionRefusesABadRate : Obligations.ConstructionRefusesABadRate := by
  intro l nonpos
  refine construct_of_not_valid fun valid => ?_
  obtain ⟨pos, -⟩ := l.rate.valid_iff.mp valid
  exact absurd pos nonpos.not_gt

end Sys2Proof.Machine
end

section
/-!
PROOFS. The decoder and the encoder are inverse to each other, and the opcode byte alone fixes the length and
the class: `30_encoding.md` rules R90 to R103.
-/
namespace Sys2Proof.Machine

/-! ## Nibbles and bytes taken apart and joined again -/

@[simp] theorem hiNibble_joinNibbles (h l : Code) : hiNibble (joinNibbles h l) = h := by
  revert h l; decide

@[simp] theorem loNibble_joinNibbles (h l : Code) : loNibble (joinNibbles h l) = l := by
  revert h l; decide

@[simp] theorem joinNibbles_hiNibble_loNibble (b : Byte) : joinNibbles (hiNibble b) (loNibble b) = b := by
  revert b; decide +kernel

/-! ## What the opcode byte alone decides -/

/-- The trailing bytes reach the operands only, rule R91: not whether the term stands for an encoding, not
its class, not its opcode byte. -/
theorem instrOf_bare (op b1 b2 : Byte) :
    (instrOf op b1 b2).wf = (instrOf op 0 0).wf ∧
      opcodeClass (instrOf op b1 b2) = opcodeClass (instrOf op 0 0) ∧
      (encode (instrOf op b1 b2)).head? = (encode (instrOf op 0 0)).head? := by
  unfold instrOf
  split
  case isTrue => unfold byteOperation; split <;> exact ⟨rfl, rfl, rfl⟩
  case isFalse => unfold nibbleOperation; split <;> exact ⟨rfl, rfl, rfl⟩

theorem wf_instrOf (op b1 b2 : Byte) : (instrOf op b1 b2).wf = true := by
  have bare : ∀ op : Byte, (instrOf op 0 0).wf = true := by decide +kernel
  obtain ⟨wf, -, -⟩ := instrOf_bare op b1 b2
  rw [wf, bare]

theorem head_encode_instrOf (op b1 b2 : Byte) : (encode (instrOf op b1 b2)).head? = some op := by
  have bare : ∀ op : Byte, (encode (instrOf op 0 0)).head? = some op := by decide +kernel
  obtain ⟨-, -, head⟩ := instrOf_bare op b1 b2
  rw [head, bare]

/-! ## Decoding the bytes of an instruction -/

theorem decode_of_length_one {op : Byte} (len : instrLength op = 1) (rest : List Byte) :
    decode (op :: rest) = .ok (instrOf op 0 0, rest) := by
  simp only [decode, len]

theorem decode_of_length_two {op : Byte} (len : instrLength op = 2) (b1 : Byte) (rest : List Byte) :
    decode (op :: b1 :: rest) = .ok (instrOf op b1 0, rest) := by
  simp only [decode, len]

theorem decode_of_length_three {op : Byte} (len : instrLength op = 3) (b1 b2 : Byte) (rest : List Byte) :
    decode (op :: b1 :: b2 :: rest) = .ok (instrOf op b1 b2, rest) := by
  simp only [decode, len]

/-- An opcode byte of a nibble family is above 0x70, so its instruction is that of the family in its high
nibble, rule R91. -/
theorem instrOf_joinNibbles {family : Code} (h : 8 ≤ family.toNat) (sel : Code) (b1 b2 : Byte) :
    instrOf (joinNibbles family sel) b1 b2 = nibbleOperation (joinNibbles family sel) b1 b2 := by
  unfold instrOf
  rw [if_neg (by rw [toNat_joinNibbles]; omega)]

/-- The selector does not reach the length, rule R95. -/
theorem instrLength_joinNibbles {family : Code} (h : 8 ≤ family.toNat) (sel : Code) :
    instrLength (joinNibbles family sel) = instrLength (joinNibbles family 0) := by
  revert family sel; decide

/-- Settles O1: the opcode byte of the encoding has the length of the instruction's format, and the operands
read from the trailing bytes are the ones that were joined into them. -/
theorem decodeAfterEncode : Obligations.DecodeAfterEncode := by
  intro i rest wf
  cases i with
  | nop | incc | decc | ldbC | stbC | swp | ldwC | rdt | wrt | stwC | calla | ret | rti | ei | di | eci
  | dci | rsv54 | rsv55 | inp | out | hlt => exact decode_of_length_one rfl rest
  | add8 x y | add16 x y | sub8 x y | sub16 x y | neg x y | and8 x y | or8 x y | xor8 x y | rol8 x y
  | shf8 x y | mul8 x y | mov8 x y | mov16 x y =>
    refine (decode_of_length_two rfl (joinNibbles x y) rest).trans ?_
    simp [instrOf, byteOperation]
  | movx b | ldbBp b | stbBp b | ldwBp b | stwBp b | int b => exact decode_of_length_two rfl b rest
  | jmp w | jz w | jc w | jnz w | jnc w | call w =>
    refine (decode_of_length_three rfl (lo w) (hi w) rest).trans ?_
    simp [instrOf, byteOperation]
  | mvi8 sel b | adi8 sel b =>
    refine (decode_of_length_two (instrLength_joinNibbles (by decide) sel) b rest).trans ?_
    rw [instrOf_joinNibbles (by decide)]
    simp [nibbleOperation]
  | mvi16 sel w | adi16 sel w =>
    refine (decode_of_length_three (instrLength_joinNibbles (by decide) sel) (lo w) (hi w) rest).trans ?_
    rw [instrOf_joinNibbles (by decide)]
    simp [nibbleOperation]
  | push8 sel | push16 sel | pop8 sel | pop16 sel =>
    refine (decode_of_length_one (instrLength_joinNibbles (by decide) sel) rest).trans ?_
    rw [instrOf_joinNibbles (by decide)]
    simp [nibbleOperation]
  | illegal op =>
    have bare : ∀ op : Byte, isIllegalOpcode op = true → instrOf op 0 0 = .illegal op := by decide +kernel
    refine (decode_of_length_one (Laws.EncodedShape.instrLength_illegal op wf) rest).trans ?_
    rw [bare op wf]

/-! ## Encoding what was decoded -/

/-- The bytes after the opcode byte are the trailing bytes themselves, as many as the encoding has. -/
theorem tail_encode_instrOf (op b1 b2 : Byte) :
    (encode (instrOf op b1 b2)).tail = [b1, b2].take ((encode (instrOf op b1 b2)).length - 1) := by
  unfold instrOf
  split
  case isTrue => unfold byteOperation; split <;> simp [encode]
  case isFalse => unfold nibbleOperation; split <;> simp [encode]

/-- The encoding of a decoded instruction is its opcode byte and the trailing bytes its length counts. -/
theorem encode_instrOf (op b1 b2 : Byte) :
    encode (instrOf op b1 b2) = op :: [b1, b2].take (instrLength op - 1) := by
  rw [← encode_instrOf_length op b1 b2, ← tail_encode_instrOf]
  exact (List.cons_head?_tail (head_encode_instrOf op b1 b2)).symm

/-- All that decoding can answer: the instruction of the opcode byte and as many of the next bytes as its
length counts, with the others left over. -/
theorem decode_ok {op : Byte} {tail rest : List Byte} {i : Instr} (h : decode (op :: tail) = .ok (i, rest)) :
    ∃ b1 b2, i = instrOf op b1 b2 ∧ tail = [b1, b2].take (instrLength op - 1) ++ rest := by
  rcases instrLength_cases op with len | len | len
  · rw [decode_of_length_one len] at h
    cases h
    exact ⟨0, 0, rfl, by rw [len]; rfl⟩
  · match tail with
    | [] => simp [decode, len] at h
    | b1 :: tail =>
      rw [decode_of_length_two len] at h
      cases h
      exact ⟨b1, 0, rfl, by rw [len]; rfl⟩
  · match tail with
    | [] | [_] => simp [decode, len] at h
    | b1 :: b2 :: tail =>
      rw [decode_of_length_three len] at h
      cases h
      exact ⟨b1, b2, rfl, by rw [len]; rfl⟩

/-- Settles O2: what decodes is `instrOf` of the bytes it came from, by `decode_ok`, and `encode_instrOf` gives
those bytes back. -/
theorem encodeAfterDecode : Obligations.EncodeAfterDecode := by
  intro bytes rest i h
  match bytes with
  | [] => cases h
  | op :: tail =>
    obtain ⟨b1, b2, rfl, htail⟩ := decode_ok h
    exact ⟨wf_instrOf op b1 b2, by rw [encode_instrOf, htail]; rfl⟩

/-! ## Class and length -/

/-- An instruction of the class of illegal opcodes is the one of its opcode byte. -/
theorem eq_illegal_of_class {i : Instr} {op : Byte} (h : opcodeClass i = .illegalOpcode)
    (head : (encode i).head? = some op) : i = .illegal op := by
  cases i with
  | illegal op' => cases head; rfl
  | _ => cases h

/-- Settles O3: three bytes always decode, and the class is that of the opcode byte alone, which is read off
for each of the 256 bytes. -/
theorem decoderClassifiesEveryOpcode : Obligations.DecoderClassifiesEveryOpcode := by
  intro op b1 b2 rest
  obtain ⟨c1, c2, left, hdecode⟩ :
      ∃ c1 c2 left, decode (op :: b1 :: b2 :: rest) = .ok (instrOf op c1 c2, left) := by
    rcases decode_three op b1 b2 rest with ⟨-, e⟩ | ⟨-, e⟩ | ⟨-, e⟩ <;> exact ⟨_, _, _, e⟩
  refine ⟨_, left, hdecode, ?_, fun h => eq_illegal_of_class h (head_encode_instrOf op c1 c2)⟩
  obtain ⟨-, bare, -⟩ := instrOf_bare op c1 c2
  rw [bare]
  clear bare hdecode
  revert op; decide +kernel

/-- Settles O4: `decode_ok` splits the bytes after the opcode byte at its length, which is read off for each of
the 256 bytes. -/
theorem lengthIsFixedByTheOpcode : Obligations.LengthIsFixedByTheOpcode := by
  intro op tail rest i h
  obtain ⟨b1, b2, -, rfl⟩ := decode_ok h
  clear h
  refine Eq.trans (b := rest.length + instrLength op) ?split (congrArg (rest.length + ·) ?table)
  case split =>
    have := instrLength_cases op
    simp only [List.length_append, List.length_take, List.length_cons, List.length_nil]
    omega
  case table => revert op; decide +kernel

/-- Settles O5: each word is the encoding of its instruction, so `decodeAfterEncode` reads it back. -/
theorem sampleWordsDecode : Obligations.SampleWordsDecode :=
  ⟨decodeAfterEncode .incc [] rfl, decodeAfterEncode (.mov8 1 2) [] rfl,
    decodeAfterEncode (.ldbBp 0xFF) [] rfl, decodeAfterEncode (.jmp 0x1234) [] rfl,
    decodeAfterEncode (.push16 2) [] rfl, decodeAfterEncode (.mvi8 3 0x7F) [] rfl,
    decodeAfterEncode (.adi16 2 0xFFFC) [] rfl, decodeAfterEncode (.illegal 0x0E) [] rfl⟩

end Sys2Proof.Machine
end

section
/-!
PROOFS. Arithmetic and logic beyond the additions: `41_alu.md` rules R151 and R154 to R164.
-/
namespace Sys2Proof.Machine

/-! ## NOP, INCC and DECC -/

/-- Settles O32: each of the three is the identity. -/
theorem nopsChangeNothing : Obligations.NopsChangeNothing :=
  ⟨⟨rfl, rfl, rfl⟩, fun _ => ⟨rfl, rfl, rfl⟩⟩

/-- INCC writes C plus 1, rule R156. -/
theorem exec_incc (s : State) : exec .incc s = .next (s.setReg .c (s.prim.c + 1#16)) := rfl

/-- DECC writes C minus 1, rule R157. -/
theorem exec_decc (s : State) : exec .decc s = .next (s.setReg .c (s.prim.c - 1#16)) := rfl

/-- Settles O37: both are writes of C, which is code 1 of the r16 class, without flags. -/
theorem countCResult : Obligations.CountCResult := by
  refine ⟨⟨rfl, rfl⟩, fun s => ⟨⟨_, exec_incc s, ?incc⟩, ⟨_, exec_decc s, ?decc⟩⟩⟩
  case incc =>
    rw [← show (s.prim.c + 1#16).toNat = (s.prim.c.toNat + 1) % 65536 from BitVec.toNat_add ..]
    exact setReg_writes_without_flags rfl s _
  case decc =>
    rw [← show (s.prim.c - 1#16).toNat = (s.prim.c.toNat + 65535) % 65536 by bv_omega]
    exact setReg_writes_without_flags rfl s _

/-! ## SUB8 and SUB16 -/

/-- SUB8 with two g8 codes is the subtraction from the half-register of the first, rule R154. -/
theorem exec_sub8_of_g8 {x y : Code} {d r : Half} (hx : g8 x = some d) (hy : g8 y = some r) (s : State) :
    exec (.sub8 x y) s = .next (s.subFromHalf d (s.half r)) := by
  simp only [exec, execSub8, hx, hy]

/-- SUB8 with a code outside the g8 class is the raise of code 0, `40_step_dispatch.md` rule R134. -/
theorem exec_sub8_of_gt {x y : Code} (h : 3 < x.toNat ∨ 3 < y.toNat) (s : State) :
    exec (.sub8 x y) s = .next (s.raiseInterrupt 0x00) := by
  rcases h with hx | hy
  · simp only [exec, execSub8, g8_of_gt hx, State.badParameter]
  · simp only [exec, execSub8, g8_of_gt hy, State.badParameter]
    cases g8 x <;> rfl

/-- Settles O35: with two g8 codes SUB8 is `subFromHalf`, whose result, frame and flags `subFromHalf_spec`
gives; any other code faults. -/
theorem sub8Result : Obligations.Sub8Result := by
  refine fun s x y diff =>
    ⟨encodedAs_joinNibbles (op := 0x03) rfl, fun hx hy hdiff => ?_, fun h => exec_sub8_of_gt h s⟩
  obtain ⟨d, hd⟩ := g8_of_le hx
  obtain ⟨r, hr⟩ := g8_of_le hy
  have operand : (s.half r).toNat = s.prim.g8Nat y := toNat_half_of_g8 hr s.prim
  rw [hdiff, ← operand]
  exact ⟨_, exec_sub8_of_g8 hd hr s, subFromHalf_spec hd s (s.half r)⟩

/-- SUB16 with two r16 codes is the subtraction from the register of the first, rule R155. -/
theorem exec_sub16_of_r16 {x y : Code} {d r : Reg} (hx : r16 x = some d) (hy : r16 y = some r) (s : State) :
    exec (.sub16 x y) s = .next (s.subFromReg d (s.reg r)) := by
  simp only [exec, execSub16, hx, hy]

/-- SUB16 with a code outside the r16 class is the raise of code 0, `40_step_dispatch.md` rule R134. -/
theorem exec_sub16_of_gt {x y : Code} (h : 3 < x.toNat ∨ 3 < y.toNat) (s : State) :
    exec (.sub16 x y) s = .next (s.raiseInterrupt 0x00) := by
  rcases h with hx | hy
  · simp only [exec, execSub16, r16_of_gt hx, State.badParameter]
  · simp only [exec, execSub16, r16_of_gt hy, State.badParameter]
    cases r16 x <;> rfl

/-- Settles O36: with two r16 codes SUB16 is `subFromReg`, whose result, frame and flags `subFromReg_spec`
gives; any other code faults. -/
theorem sub16Result : Obligations.Sub16Result := by
  refine fun s x y diff =>
    ⟨encodedAs_joinNibbles (op := 0x04) rfl, fun hx hy hdiff => ?_, fun h => exec_sub16_of_gt h s⟩
  obtain ⟨d, hd⟩ := r16_of_le hx
  obtain ⟨r, hr⟩ := r16_of_le hy
  have operand : (s.reg r).toNat = s.prim.r16Nat y := toNat_reg_of_r16 hr s.prim
  rw [hdiff, ← operand]
  exact ⟨_, exec_sub16_of_r16 hd hr s, subFromReg_spec hd s (s.reg r)⟩

/-! ## NEG -/

/-- NEG in mode 0 negates a half-register, rule R158. -/
theorem exec_neg_half {x y : Code} {d : Half} (mode : y.toNat = 0) (hx : g8 x = some d) (s : State) :
    exec (.neg x y) s = .next (s.setHalf d (-(s.half d))) := by
  simp only [exec, execNeg, mode, hx]

/-- NEG in mode 1 negates A or C, rule R158. -/
theorem exec_neg_reg {x y : Code} {d : Reg} (mode : y.toNat = 1) (hx : g16 x = some d) (s : State) :
    exec (.neg x y) s = .next (s.setReg d (-(s.reg d))) := by
  simp only [exec, execNeg, mode, hx]

/-- NEG in any other mode, or with a code outside its mode's class, is the raise of code 0. -/
theorem exec_neg_of_bad {x y : Code}
    (h : 2 ≤ y.toNat ∨ (y.toNat = 0 ∧ 3 < x.toNat) ∨ (y.toNat = 1 ∧ 1 < x.toNat)) (s : State) :
    exec (.neg x y) s = .next (s.raiseInterrupt 0x00) := by
  rcases h with mode | ⟨mode, hx⟩ | ⟨mode, hx⟩
  · simp only [exec, execNeg]
    split
    · omega
    · omega
    · rfl
  · simp only [exec, execNeg, mode, g8_of_gt hx, State.badParameter]
  · simp only [exec, execNeg, mode, g16_of_gt hx, State.badParameter]

/-- Settles O38: the two modes are writes without flags of the negated operand; a g16 code is the r16 code of
the same register. -/
theorem negResult : Obligations.NegResult := by
  refine fun s x y => ⟨encodedAs_joinNibbles (op := 0x07) rfl, fun mode hx => ?half, fun mode hx => ?reg,
    fun h => exec_neg_of_bad h s⟩
  case half =>
    obtain ⟨d, hd⟩ := g8_of_le hx
    have value : (-(s.half d)).toNat = (256 - s.prim.g8Nat x) % 256 := by
      rw [BitVec.toNat_neg, ← toNat_half_of_g8 hd]
      rfl
    rw [← value]
    exact ⟨_, exec_neg_half mode hd s, setHalf_writes_without_flags hd s _⟩
  case reg =>
    obtain ⟨d, hd, hd16⟩ := g16_of_le hx
    have value : (-(s.reg d)).toNat = (65536 - s.prim.r16Nat x) % 65536 := by
      rw [BitVec.toNat_neg, ← toNat_reg_of_r16 hd16]
      rfl
    rw [← value]
    exact ⟨_, exec_neg_reg mode hd s, setReg_writes_without_flags hd16 s _⟩

/-! ## AND8, OR8 and XOR8 -/

/-- A logic operation with two g8 codes combines the two half-registers into the first, rules R159 to R161. -/
theorem logic8_of_g8 {x y : Code} {d r : Half} (hx : g8 x = some d) (hy : g8 y = some r) (s : State)
    (f : Byte → Byte → Byte) : s.logic8 f x y = s.setHalf d (f (s.half d) (s.half r)) := by
  simp only [State.logic8, hx, hy]

/-- A logic operation with a code outside the g8 class is the raise of code 0. -/
theorem logic8_of_gt {x y : Code} (h : 3 < x.toNat ∨ 3 < y.toNat) (s : State) (f : Byte → Byte → Byte) :
    s.logic8 f x y = s.raiseInterrupt 0x00 := by
  rcases h with hx | hy
  · simp only [State.logic8, g8_of_gt hx, State.badParameter]
  · simp only [State.logic8, g8_of_gt hy, State.badParameter]
    cases g8 x <;> rfl

/-- A logic operation whose function is `op` on numbers leaves `op` of the two operands, without flags. -/
theorem logic8_spec {x y : Code} {f : Byte → Byte → Byte} {op : Nat → Nat → Nat}
    (hf : ∀ a b, (f a b).toNat = op a.toNat b.toNat) (hx : x.toNat ≤ 3) (hy : y.toNat ≤ 3) (s : State) :
    WroteG8 x (op (s.prim.g8Nat x) (s.prim.g8Nat y)) s (s.logic8 f x y) ∧
      (s.logic8 f x y).prim.f = s.prim.f := by
  obtain ⟨d, hd⟩ := g8_of_le hx
  obtain ⟨r, hr⟩ := g8_of_le hy
  rw [logic8_of_g8 hd hr, ← toNat_half_of_g8 hd, ← toNat_half_of_g8 hr, ← hf]
  exact setHalf_writes_without_flags hd s _

/-- Settles O39: the three share `logic8`, each with its bitwise function on numbers. -/
theorem logicResult : Obligations.LogicResult := by
  refine fun s x y => ⟨⟨encodedAs_joinNibbles (op := 0x08) rfl, encodedAs_joinNibbles (op := 0x09) rfl,
    encodedAs_joinNibbles (op := 0x0A) rfl⟩, fun hx hy => ?_, fun h => ?_⟩
  · exact ⟨⟨_, rfl, logic8_spec BitVec.toNat_and hx hy s⟩, ⟨_, rfl, logic8_spec BitVec.toNat_or hx hy s⟩,
      ⟨_, rfl, logic8_spec BitVec.toNat_xor hx hy s⟩⟩
  · exact ⟨congrArg _ (logic8_of_gt h s _), congrArg _ (logic8_of_gt h s _), congrArg _ (logic8_of_gt h s _)⟩

/-! ## ROL8 and SHF8 -/

/-- ROL8 with a g8 code and an amount up to 7 rotates that half-register, rule R162. -/
theorem exec_rol8_of_g8 {x y : Code} {d : Half} (hx : g8 x = some d) (hy : y.toNat ≤ 7) (s : State) :
    exec (.rol8 x y) s = .next (s.setHalf d (rotateLeft8 (s.half d) y.toNat)) := by
  simp only [exec, execRol8, hx, if_pos hy]

/-- ROL8 with a code outside the g8 class or an amount above 7 is the raise of code 0. -/
theorem exec_rol8_of_gt {x y : Code} (h : 3 < x.toNat ∨ 7 < y.toNat) (s : State) :
    exec (.rol8 x y) s = .next (s.raiseInterrupt 0x00) := by
  rcases h with hx | hy
  · simp only [exec, execRol8, g8_of_gt hx, State.badParameter]
  · simp only [exec, execRol8, if_neg (Nat.not_le.2 hy), State.badParameter]
    cases g8 x <;> rfl

/-- Settles O40: the half-register is written without flags; `toNat_rotateLeft8` is the formula of rule R162. -/
theorem rol8Result : Obligations.Rol8Result := by
  refine fun s x y v =>
    ⟨encodedAs_joinNibbles (op := 0x0B) rfl, fun hx hy hv => ?_, fun h => exec_rol8_of_gt h s⟩
  obtain ⟨d, hd⟩ := g8_of_le hx
  have operand : (s.half d).toNat = s.prim.g8Nat x := toNat_half_of_g8 hd s.prim
  rw [hv, ← operand, ← toNat_rotateLeft8 _ hy]
  exact ⟨_, exec_rol8_of_g8 hd hy s, setHalf_writes_without_flags hd s _⟩

/-- SHF8 with a g8 code shifts that half-register, whatever the amount, rule R163. -/
theorem exec_shf8_of_g8 {x : Code} {d : Half} (hx : g8 x = some d) (y : Code) (s : State) :
    exec (.shf8 x y) s = .next (s.setHalf d (shift8 (s.half d) y.toNat)) := by
  simp only [exec, execShf8, hx]

/-- SHF8 with a code outside the g8 class is the raise of code 0. -/
theorem exec_shf8_of_gt {x : Code} (h : 3 < x.toNat) (y : Code) (s : State) :
    exec (.shf8 x y) s = .next (s.raiseInterrupt 0x00) := by
  simp only [exec, execShf8, g8_of_gt h, State.badParameter]

/-- Settles O41: the half-register is written without flags; `toNat_shift8` is the formula of rule R163. -/
theorem shf8Result : Obligations.Shf8Result := by
  refine fun s x y v =>
    ⟨encodedAs_joinNibbles (op := 0x0C) rfl, fun hx hv => ?_, fun h => exec_shf8_of_gt h y s⟩
  obtain ⟨d, hd⟩ := g8_of_le hx
  have operand : (s.half d).toNat = s.prim.g8Nat x := toNat_half_of_g8 hd s.prim
  rw [hv, ← operand, ← toNat_shift8]
  exact ⟨_, exec_shf8_of_g8 hd y s, setHalf_writes_without_flags hd s _⟩

/-! ## MUL8 -/

/-- MUL8 with two g8 codes, the narrow form of rule R164. -/
theorem exec_mul8_of_g8 {x y : Code} {d r : Half} (hx : g8 x = some d) (hy : g8 y = some r) (s : State) :
    exec (.mul8 x y) s =
      .next ((s.setHalf d (mulN (s.half d) (s.half r)).result).setCY (mulN (s.half d) (s.half r)).carry) := by
  simp only [exec, execMul8, hx, hy]

/-- MUL8 with `y = 4`, the wide form of rule R164. -/
theorem exec_mul8_wide {x y : Code} {d : Half} (hx : g8 x = some d) (hy : y.toNat = 4) (s : State) :
    exec (.mul8 x y) s =
      .next ((s.setReg .a (mulN s.prim.a (s.half d)).result).setCY (mulN s.prim.a (s.half d)).carry) := by
  have none : g8 y = none := g8_of_gt (by omega)
  simp only [exec, execMul8, hx, none, if_pos hy]
  rfl

/-- MUL8 with `x` above 3 or `y` above 4 is the raise of code 0. -/
theorem exec_mul8_of_gt {x y : Code} (h : 3 < x.toNat ∨ 4 < y.toNat) (s : State) :
    exec (.mul8 x y) s = .next (s.raiseInterrupt 0x00) := by
  rcases h with hx | hy
  · simp only [exec, execMul8, g8_of_gt hx, State.badParameter]
  · have none : g8 y = none := g8_of_gt (by omega)
    simp only [exec, execMul8, none, if_neg (show ¬ y.toNat = 4 by omega), State.badParameter]
    cases g8 x <;> rfl

/-- CY assigned after a write that moves no flag: CY is the value and every other bit of F is kept. -/
theorem setCY_after_write {s s' : State} (flags : s'.prim.f = s.prim.f) (c : Bool) :
    (s'.setCY c).prim.f.getLsbD 1 = c ∧ FlagBitsKept 0xFD s.prim (s'.setCY c).prim :=
  ⟨setCY_bit1 s' c, (FlagBitsKept.of_eq flags).trans (setCY_mask s' c)⟩

/-- Settles O42: both forms write the truncated product and then CY, and Z is under the mask that `setCY`
keeps. -/
theorem mul8Result : Obligations.Mul8Result := by
  refine fun s x y p => ⟨encodedAs_joinNibbles (op := 0x0D) rfl, fun hx hy hp => ?narrow,
    fun hx hy hp => ?wide, fun h => exec_mul8_of_gt h s⟩
  case narrow =>
    obtain ⟨d, hd⟩ := g8_of_le hx
    obtain ⟨r, hr⟩ := g8_of_le hy
    rw [← toNat_half_of_g8 hd, ← toNat_half_of_g8 hr] at hp
    subst hp
    obtain ⟨wrote, flags⟩ := setHalf_writes_without_flags hd s (mulN (s.half d) (s.half r)).result
    exact ⟨_, exec_mul8_of_g8 hd hr s, wrote.setCY _, setCY_after_write flags _⟩
  case wide =>
    obtain ⟨d, hd⟩ := g8_of_le hx
    rw [← toNat_half_of_g8 hd] at hp
    subst hp
    obtain ⟨wrote, flags⟩ :=
      setReg_writes_without_flags (k := 0) (d := .a) rfl s (mulN s.prim.a (s.half d)).result
    exact ⟨_, exec_mul8_wide hd hy s, wrote.setCY _, setCY_after_write flags _⟩

end Sys2Proof.Machine
end

section
/-!
PROOFS. MOVX and the immediate moves, push and pop together, and RET: `42_moves_loads_stores.md` rule R183,
`43_control_transfer.md` rule R219, `45_nibble_ops.md` rules R251 to R256.
-/
namespace Sys2Proof.Machine

/-! ## MOVX -/

/-- Tag 1 reads F into A-low, rule R183. -/
theorem exec_movx_f {tag : Byte} (h : tag.toNat = 1) (s : State) :
    exec (.movx tag) s = .next (s.setHalf .aLow s.prim.f) := by
  simp only [exec, execMovx, h]

/-- Tag 2 reads `ic` into A-low, rule R183. -/
theorem exec_movx_ic {tag : Byte} (h : tag.toNat = 2) (s : State) :
    exec (.movx tag) s = .next (s.setHalf .aLow s.ic) := by
  simp only [exec, execMovx, h]

/-- Tag 3 reads `ip` into A, rule R183. -/
theorem exec_movx_ip {tag : Byte} (h : tag.toNat = 3) (s : State) :
    exec (.movx tag) s = .next (s.setReg .a s.ip) := by
  simp only [exec, execMovx, h]

/-- Any other tag is the raise of code 0, `30_encoding.md` rule R99. -/
theorem exec_movx_of_bad {tag : Byte} (h : tag.toNat = 0 ∨ 4 ≤ tag.toNat) (s : State) :
    exec (.movx tag) s = .next (s.raiseInterrupt 0x00) := by
  simp only [exec, execMovx]
  split
  case h_4 => rfl
  all_goals omega

/-- Settles O44: A-low is code 0 of the g8 class and A code 0 of the r16 class, written without flags. -/
theorem movxResult : Obligations.MovxResult := fun s _ =>
  ⟨rfl, fun h => ⟨_, exec_movx_f h s, setHalf_writes_without_flags rfl s s.prim.f⟩,
    fun h => ⟨_, exec_movx_ic h s, setHalf_writes_without_flags rfl s s.ic⟩,
    fun h => ⟨_, exec_movx_ip h s, setReg_writes_without_flags rfl s s.ip⟩,
    fun h => exec_movx_of_bad h s⟩

/-! ## MVI8 and MVI16 -/

/-- MVI8 with a g8 selector writes its byte to that half-register, rule R251. -/
theorem exec_mvi8_of_g8 {sel : Code} {d : Half} (h : g8 sel = some d) (b : Byte) (s : State) :
    exec (.mvi8 sel b) s = .next (s.setHalf d b) := by
  simp only [exec, execMvi8, h]

/-- MVI16 with an r16 selector writes its word to that register, rule R252. -/
theorem exec_mvi16_of_r16 {sel : Code} {d : Reg} (h : r16 sel = some d) (w : Word) (s : State) :
    exec (.mvi16 sel w) s = .next (s.setReg d w) := by
  simp only [exec, execMvi16, h]

/-- An immediate move with a selector above 3 is the raise of code 0, rule R250. -/
theorem exec_mvi_of_gt {sel : Code} (h : 3 < sel.toNat) (b : Byte) (w : Word) (s : State) :
    exec (.mvi8 sel b) s = .next (s.raiseInterrupt 0x00) ∧
      exec (.mvi16 sel w) s = .next (s.raiseInterrupt 0x00) := by
  constructor
  · simp only [exec, execMvi8, g8_of_gt h, State.badParameter]
  · simp only [exec, execMvi16, r16_of_gt h, State.badParameter]

/-- Settles O54: both are writes of the immediate without flags. -/
theorem moveImmediateResult : Obligations.MoveImmediateResult := by
  refine fun s sel b w => ⟨⟨encodedAs_nibble 0x8 [b] rfl, ?mvi16Bytes⟩,
    fun hsel => ⟨?mvi8, ?mvi16⟩, fun hsel => exec_mvi_of_gt hsel b w s⟩
  case mvi16Bytes => simpa using encodedAs_nibble 0x9 [lo w, hi w] rfl
  case mvi8 =>
    obtain ⟨d, hd⟩ := g8_of_le hsel
    exact ⟨_, exec_mvi8_of_g8 hd b s, setHalf_writes_without_flags hd s b⟩
  case mvi16 =>
    obtain ⟨d, hd⟩ := r16_of_le hsel
    exact ⟨_, exec_mvi16_of_r16 hd w s, setReg_writes_without_flags hd s w⟩

/-! ## PUSH16 and then POP16 -/

@[simp] theorem Bank.setReg_reg (b : Bank) (r : Reg) : b.setReg r (b.reg r) = b := by
  cases r <;> rfl

/-- A pushed word is read back at the new SP. -/
@[simp] theorem State.readWord_pushWord (s : State) (v : Word) :
    (s.pushWord v).readWord (s.pushWord v).prim.sp = v :=
  State.readWord_writeWord_same ..

/-- Moving SP back up after a word push restores the primary bank. -/
theorem pushWord_prim_setReg_sp (s : State) (v : Word) :
    (s.pushWord v).prim.setReg .sp ((s.pushWord v).prim.sp + 2#16) = s.prim := by
  rw [State.pushWord_sp, BitVec.sub_add_cancel]
  rfl

/-- Settles O57: the pop moves SP back and reads the word that was pushed, which is the value the selected
register had; for SP itself that is also the SP it had. -/
theorem pushThenPopRestores : Obligations.PushThenPopRestores := by
  intro s sel hsel
  obtain ⟨r, hr⟩ := r16_of_le hsel
  refine ⟨_, _, exec_push16_of_r16 hr s, exec_pop16_of_r16 hr _, ?_⟩
  rw [State.readWord_pushWord, State.setReg_prim, State.setReg_prim, pushWord_prim_setReg_sp]
  exact Bank.setReg_reg s.prim r

/-! ## RET -/

/-- RET jumps to the word at SP and moves SP past it, rule R219. -/
theorem exec_ret (s : State) :
    exec .ret s =
      .next { s with ip := s.readWord s.prim.sp, prim := { s.prim with sp := s.prim.sp + 2#16 } } := rfl

/-- Settles O50: `exec_ret`, with the word in the spec's arithmetic. -/
theorem retResult : Obligations.RetResult :=
  ⟨rfl, fun s => ⟨_, exec_ret s, toNat_readWord s s.prim.sp, BitVec.toNat_add .., rfl, fun _ => rfl⟩⟩

end Sys2Proof.Machine
end

section
/-!
PROOFS. System and I/O, INT and RTI: `44_system_io.md` rules R230 to R238, `43_control_transfer.md` rules R218
and R220.
-/
namespace Sys2Proof.Machine

/-! ## The mode bits, INT and RTI -/

/-- Settles O51: each of the five writes its one field. -/
theorem modeBitResult : Obligations.ModeBitResult :=
  ⟨⟨rfl, rfl, rfl, rfl, rfl⟩, fun _ => ⟨rfl, rfl, rfl, rfl, rfl⟩⟩

/-- INT is the raise of its code, rule R218. -/
theorem exec_int (code : Byte) (s : State) : exec (.int code) s = .next (s.raiseInterrupt code) := rfl

/-- Settles O24: the second byte of the encoding is the code that `exec_int` raises. -/
theorem intRaisesItsCode : Obligations.IntRaisesItsCode := fun code s => ⟨rfl, exec_int code s⟩

/-- RTI is the return from interrupt, rule R220. -/
theorem exec_rti (s : State) : exec .rti s = .next s.returnFromInterrupt := rfl

/-- Settles O25: the four branches of the return from interrupt. -/
theorem rtiResult : Obligations.RtiResult := by
  refine ⟨rfl, fun s => ?_⟩
  rw [exec_rti]
  refine ⟨fun two => ?_, fun one => ?_, fun zero stays => ?_, fun zero restores => ⟨_, rfl, ?_⟩⟩
  · simp only [State.returnFromInterrupt, two]
  · simp only [State.returnFromInterrupt, one]
  · simp [State.returnFromInterrupt, zero, stays, State.badParameter]
  · simp [State.returnFromInterrupt, zero, restores, State.badParameter, State.jump]

/-! ## IN -/

/-- IN with a byte left in INPUT, rule R236. -/
theorem exec_inp_of_input {s : State} {b : Byte} {rest : List Byte} (h : s.input = b :: rest) :
    exec .inp s = .next (State.setHalf { s with input := rest } .aLow b) := by
  simp only [exec, execInp, State.portIn, h]

/-- IN with INPUT ended, where the parameter INPUT_EXHAUSTED gives a byte (decision D18). -/
theorem exec_inp_of_value {s : State} {b : Byte} (ended : s.input = []) (h : s.inputExhausted = .value b) :
    exec .inp s = .next (s.setHalf .aLow b) := by
  simp only [exec, execInp, State.portIn, ended, h]

/-- IN with no byte to come is stuck, `20_memory.md` rule R78. -/
theorem exec_inp_of_stuck {s : State} (ended : s.input = []) (h : s.inputExhausted = .stuck) :
    exec .inp s = .fault .inputBlocked := by
  simp only [exec, execInp, State.portIn, ended, h]

/-- Settles O52: the byte is written to A-low without flags, in the state whose input has moved on. -/
theorem inResult : Obligations.InResult := by
  refine ⟨rfl, fun s => ⟨fun b rest h => ?_, fun b ended h => ?_, exec_inp_of_stuck⟩⟩
  · obtain ⟨⟨value, frame, -, bytes⟩, flags⟩ :=
      setHalf_writes_without_flags (k := 0) (d := .aLow) rfl { s with input := rest } b
    exact ⟨_, exec_inp_of_input h, rfl, value, frame, flags, rfl, bytes⟩
  · exact ⟨_, exec_inp_of_value ended h, setHalf_writes_without_flags rfl s b⟩

/-! ## OUT -/

/-- OUT with an endpoint that always accepts, rule R237. -/
theorem exec_out_of_always {s : State} (h : s.sink = .always) :
    exec .out s = .next { s with output := s.output ++ [s.half .aLow] } := by
  simp only [exec, execOut, State.portOut, h]

/-- OUT with an endpoint that accepts `n` more bytes after this one (log entry 8). -/
theorem exec_out_of_accepts {s : State} {n : Nat} (h : s.sink = .accepts (n + 1)) :
    exec .out s = .next { s with output := s.output ++ [s.half .aLow], sink := .accepts n } := by
  simp only [exec, execOut, State.portOut, h]

/-- OUT with an endpoint that never accepts is stuck, `20_memory.md` rule R78. -/
theorem exec_out_of_blocked {s : State} (h : s.sink = .accepts 0) :
    exec .out s = .fault .outputBlocked := by
  simp only [exec, execOut, State.portOut, h]

/-- Settles O53: A-low is appended by both endpoints that accept, and the third is stuck. -/
theorem outResult : Obligations.OutResult := by
  refine ⟨rfl, fun s => ⟨fun accepts => ?_, fun blocked => exec_out_of_blocked (not_not.1 blocked)⟩⟩
  match h : s.sink with
  | .always =>
    exact ⟨_, s.half .aLow, exec_out_of_always h, toNat_lo s.prim.a, rfl, fun _ => h, nofun, rfl,
      fun _ => rfl⟩
  | .accepts 0 => exact absurd h accepts
  | .accepts (n + 1) =>
    exact ⟨_, s.half .aLow, exec_out_of_accepts h, toNat_lo s.prim.a, rfl, nofun,
      fun m hm => by cases hm; rfl, rfl, fun _ => rfl⟩

end Sys2Proof.Machine
end

section
/-!
PROOFS. The faults of an instruction, and the clock interrupt that nests with one: `30_encoding.md` rules R97 and
R99, `40_step_dispatch.md` rules R134 and R135, `60_exceptions.md` rules R280 and R284.
-/
namespace Sys2Proof.Machine

/-! ## Operands outside their list -/

theorem gt_of_not_class {k : Code} (h : isClassCode k = false) : 3 < k.toNat := by
  simpa [isClassCode] using h

theorem gt_of_not_classes {x y : Code} (h : (isClassCode x && isClassCode y) = false) :
    3 < x.toNat ∨ 3 < y.toNat :=
  (Bool.and_eq_false_iff.1 h).imp gt_of_not_class gt_of_not_class

/-- Settles O21: each instruction with operands has its own equation for the fault, and its list of operands is
the range that equation asks for; any other instruction accepts every operand. -/
theorem badOperandsOnlyRaise : Obligations.BadOperandsOnlyRaise := by
  intro i s bad
  cases i with
  | add8 x y => exact exec_add8_of_gt (gt_of_not_classes bad) s
  | add16 x y => exact exec_add16_of_gt (gt_of_not_classes bad) s
  | sub8 x y => exact exec_sub8_of_gt (gt_of_not_classes bad) s
  | sub16 x y => exact exec_sub16_of_gt (gt_of_not_classes bad) s
  | and8 x y | or8 x y | xor8 x y => exact congrArg _ (logic8_of_gt (gt_of_not_classes bad) s _)
  | mov8 x y => exact exec_mov8_of_gt (gt_of_not_classes bad) s
  | mov16 x y => exact exec_mov16_of_gt (gt_of_not_classes bad) s
  | neg x y =>
    simp only [Instr.operandsLegal, Bool.or_eq_false_iff, Bool.and_eq_false_iff, beq_eq_false_iff_ne,
      decide_eq_false_iff_not] at bad
    exact exec_neg_of_bad (by omega) s
  | rol8 x y =>
    refine exec_rol8_of_gt ((Bool.and_eq_false_iff.1 bad).imp gt_of_not_class fun h => ?_) s
    simpa using h
  | shf8 x y => exact exec_shf8_of_gt (gt_of_not_class bad) y s
  | mul8 x y =>
    refine exec_mul8_of_gt ((Bool.and_eq_false_iff.1 bad).imp gt_of_not_class fun h => ?_) s
    simpa using h
  | movx tag =>
    simp only [Instr.operandsLegal, Bool.and_eq_false_iff, decide_eq_false_iff_not] at bad
    exact exec_movx_of_bad (by omega) s
  | mvi8 sel b => exact (exec_mvi_of_gt (gt_of_not_class bad) b 0 s).1
  | mvi16 sel w => exact (exec_mvi_of_gt (gt_of_not_class bad) 0 w s).2
  | push8 sel => exact (exec_push_of_gt (gt_of_not_class bad) s).1
  | push16 sel => exact (exec_push_of_gt (gt_of_not_class bad) s).2
  | pop8 sel => exact (exec_pop_of_gt (gt_of_not_class bad) s).1
  | pop16 sel => exact (exec_pop_of_gt (gt_of_not_class bad) s).2
  | adi8 sel b => exact (exec_adi_of_gt (gt_of_not_class bad) b 0 s).1
  | adi16 sel w => exact (exec_adi_of_gt (gt_of_not_class bad) 0 w s).2
  | _ => cases bad

/-- Settles O22: each of the four is a raise, and a masked raise does nothing. -/
theorem maskedFaultsDoNothing : Obligations.MaskedFaultsDoNothing := by
  intro s masked
  have nothing : ∀ code, Host.Outcome.next (s.raiseInterrupt code) = (.next s : Result) :=
    fun code => congrArg _ (raiseInterrupt_of_masked masked code)
  obtain ⟨-, -, stray, -⟩ := rtiResult.2 s
  exact ⟨fun i bad => (badOperandsOnlyRaise i s bad).trans (nothing _),
    fun op => (exec_illegal op s).trans (nothing _), fun code => (exec_int code s).trans (nothing _),
    fun zero stays => (stray zero stays).trans (nothing _)⟩

/-! ## Two entries in one step -/

/-- Settles O23: phase 1 enters the handler of code 1 at level 1, and the illegal byte there is a second entry,
of code 0 at level 2, which saves the address after that byte. -/
theorem clockInterruptThenFaultNests : Obligations.ClockInterruptThenFaultNests := by
  rintro s v on unmasked zero pending count rfl illegal
  have phase1 : s.enterHandler 0x01 .one =
      if s.clockInterrupt = true ∧ s.ic = 0x00 then s.raiseInterrupt 0x01 else s := by
    rw [if_pos ⟨pending, count⟩, raiseInterrupt_at_zero unmasked zero]
  have hstep := stepRunsTheDecodedInstruction s _ _ _ on phase1 (decode_illegal _ _ illegal)
  obtain ⟨_, _, _, _, htick⟩ := tick_eq (s.enterHandler 0x01 .one)
  rw [htick, exec_illegal, raiseInterrupt_at_one ?second rfl] at hstep
  case second => exact unmasked
  refine ⟨_, hstep, rfl, rfl, ?ip, ?ic, rfl, on, fun _ => rfl⟩
  case ip =>
    refine (toNat_vectorAddress (redirect 0x00) s.t).trans ?_
    rw [toNat_redirect]
    simp
  case ic =>
    show s.ic + 1 = 0x01
    rw [count]
    rfl

end Sys2Proof.Machine
end

section
/-!
PROOFS. Rules over every instruction, each by cases on the shapes of `Effect`: `10_state.md` rules R21 to R36,
`20_memory.md` rules R67 to R75.
-/
namespace Sys2Proof.Machine

/-! ## What a raise can do to the shadow bank and to the power bit -/

/-- A raise leaves the shadow bank, or enters a handler: `S.A` takes `ip`, from below level 2 and to above
level 0, rules R272 and R276. -/
theorem raiseInterrupt_shad (s : State) (code : Byte) :
    (s.raiseInterrupt code).shad = s.shad ∨
      ((s.raiseInterrupt code).shad = { s.shad with a := s.ip } ∧ (s.raiseInterrupt code).prim = s.prim ∧
        s.interruptHandling = true ∧ s.level ≠ .two ∧ (s.raiseInterrupt code).level ≠ .zero) := by
  rcases raiseInterrupt_cases s code with ⟨_, e⟩ | ⟨_, _, e⟩ | ⟨unmasked, level, e⟩ | ⟨unmasked, level, e⟩ <;>
    rw [e]
  · exact .inl rfl
  · exact .inl rfl
  · exact .inr ⟨rfl, rfl, unmasked, by simp [level], nofun⟩
  · exact .inr ⟨rfl, rfl, unmasked, by simp [level], nofun⟩

/-- A raise turns the power off exactly as the triple fault, rule R285. -/
theorem raiseInterrupt_powerOn (s : State) (code : Byte) :
    (s.raiseInterrupt code).powerOn = false ↔
      s.powerOn = false ∨ (s.interruptHandling = true ∧ s.level = .two) := by
  rcases raiseInterrupt_cases s code with ⟨masked, e⟩ | ⟨unmasked, level, e⟩ | ⟨_, level, e⟩ | ⟨_, level, e⟩ <;>
    rw [e]
  · simp [masked]
  · simp [unmasked, level]
  · simp [level]
  · simp [level]

/-- A raise keeps F in both banks, rule R276. -/
theorem raiseInterrupt_flags (s : State) (code : Byte) :
    (s.raiseInterrupt code).prim.f = s.prim.f ∧ (s.raiseInterrupt code).shad.f = s.shad.f := by
  rcases raiseInterrupt_cases s code with ⟨_, e⟩ | ⟨_, _, e⟩ | ⟨_, _, e⟩ | ⟨_, _, e⟩ <;> rw [e] <;>
    exact ⟨rfl, rfl⟩

@[simp] theorem State.raiseInterrupt_prim (s : State) (code : Byte) :
    (s.raiseInterrupt code).prim = s.prim := by
  obtain ⟨_, _, _, _, e⟩ := raiseInterrupt_frame s code
  rw [e]

@[simp] theorem State.readByte_raiseInterrupt (s : State) (code : Byte) (p : Word) :
    (s.raiseInterrupt code).readByte p = s.readByte p := by
  obtain ⟨_, _, _, _, e⟩ := raiseInterrupt_frame s code
  rw [e]
  rfl

/-! ## The counter -/

theorem Effect.ic {i : Instr} {s s' : State} (e : Effect i s s') : s'.ic = s.ic := by
  cases e with
  | raise k h => exact State.raiseInterrupt_ic s k
  | strayReturn h zero param => exact State.raiseInterrupt_ic s 0#8
  | _ => rfl

theorem toExecute_ic (s : State) : s.toExecute.2.ic = s.ic := by
  obtain ⟨_, _, _, _, _, _, _, _, e⟩ := toExecute_frame s
  rw [e]

/-- Settles O8: no shape of a next state writes `ic`, nor do phases 1 to 3, and phase 5 adds 1. -/
theorem everyStepCountsOnce : Obligations.EveryStepCountsOnce := by
  refine ⟨fun i s s' h => (exec_effect i s s' h).ic, fun s s' h => ?_⟩
  obtain ⟨-, u, hexec, rfl⟩ := step_next h
  have kept : u.ic = s.ic := (exec_effect _ _ _ hexec).ic.trans (toExecute_ic s)
  rw [State.countStep_ic, kept, BitVec.toNat_add]
  rfl

/-! ## The flags -/

/-- Settles O27: apart from SWP a next state comes from a write of the primary bank, whose flags `PrimWrite`
accounts for, or keeps both F registers. -/
theorem flagsWrittenOnlyByTheListed : Obligations.FlagsWrittenOnlyByTheListed := by
  intro i s s' h
  constructor
  · rintro rfl
    cases h
    exact ⟨rfl, rfl⟩
  intro notSwap
  have kept {u : State} (hp : u.prim.f = s.prim.f) (hs : u.shad.f = s.shad.f) :
      (¬ writesZ i → u.prim.f.getLsbD 0 = s.prim.f.getLsbD 0) ∧
        (¬ writesCY i → u.prim.f.getLsbD 1 = s.prim.f.getLsbD 1) ∧
        u.prim.f &&& 0xFC = s.prim.f &&& 0xFC ∧ u.shad.f = s.shad.f := by
    rw [hp]
    exact ⟨fun _ => rfl, fun _ => rfl, rfl, hs⟩
  cases exec_effect i s s' h with
  | raise k _ =>
    obtain ⟨hp, hs⟩ := raiseInterrupt_flags s k
    exact kept hp hs
  | strayReturn =>
    obtain ⟨hp, hs⟩ := raiseInterrupt_flags s 0#8
    exact kept hp hs
  | regs b ip _ _ w | input b rest _ w =>
    obtain ⟨-, z, cy, reserved⟩ := w
    exact ⟨z, cy, reserved, rfl⟩
  | swap eq => exact absurd eq notSwap
  | _ => exact kept rfl rfl

/-! ## Memory -/

theorem Effect.sameBytesBut {i : Instr} {s s' : State} (e : Effect i s s') :
    SameBytesBut (storedTo s i) s s' := by
  cases e with
  | raise k h => exact fun a _ => State.readByte_raiseInterrupt s k a
  | strayReturn h zero param => exact fun a _ => State.readByte_raiseInterrupt s 0#8 a
  | store m sp quiet plain bytes wf => exact bytes
  | _ => exact fun _ _ => rfl

theorem readByte_toExecute (s : State) (a : Word) : s.toExecute.2.readByte a = s.readByte a := by
  obtain ⟨_, _, _, _, _, _, _, _, e⟩ := toExecute_frame s
  rw [e]
  rfl

/-- Settles O28: only the store shape writes memory, at the addresses of `storedTo`; the phases before and after
the execution write none. -/
theorem memoryWrittenOnlyByStores : Obligations.MemoryWrittenOnlyByStores := by
  refine ⟨fun i s s' h => (exec_effect i s s' h).sameBytesBut, fun s s' h a outside => ?_⟩
  obtain ⟨-, u, hexec, rfl⟩ := step_next h
  exact ((exec_effect _ _ _ hexec).sameBytesBut a outside).trans (readByte_toExecute s a)

/-! ## The shadow bank -/

/-- Settles O29: a raise leaves the shadow bank or enters a handler, SWP exchanges the banks, and no other shape
reaches it. -/
theorem shadowBankChangedOnlyBySwapOrEntry : Obligations.ShadowBankChangedOnlyBySwapOrEntry := by
  intro i s s' h
  cases exec_effect i s s' h with
  | raise k _ => exact (raiseInterrupt_shad s k).imp_right .inr
  | strayReturn => exact (raiseInterrupt_shad s 0#8).imp_right .inr
  | swap eq => exact .inr (.inl ⟨eq, rfl, rfl⟩)
  | _ => exact .inl rfl

/-! ## C-high -/

/-- Settles O31: a write of the primary bank moves C-high only by an instruction listed for it, and SWP is
listed; no other shape reaches C. -/
theorem cHighChangedOnlyByWordWrites : Obligations.CHighChangedOnlyByWordWrites := by
  intro i s s' h unlisted
  cases exec_effect i s s' h with
  | raise k _ => rw [State.raiseInterrupt_prim]
  | strayReturn => exact congrArg (·.c.toNat / 256) (State.raiseInterrupt_prim s 0#8)
  | regs b ip _ _ w | input b rest _ w =>
    obtain ⟨cHigh, -⟩ := w
    exact cHigh unlisted
  | swap eq => exact absurd (eq ▸ trivial) unlisted
  | _ => rfl

/-! ## Everything outside the banks, `ip`, the level and memory -/

/-- `t`, the mode bits, the ports, the governor, the clock and the parameters are as before, and a power bit
that is off stays off. -/
def ControlKept (s s' : State) : Prop :=
  s'.t = s.t ∧ s'.interruptHandling = s.interruptHandling ∧ s'.clockInterrupt = s.clockInterrupt ∧
    (s.powerOn = false → s'.powerOn = false) ∧ s'.input = s.input ∧
    (s'.output = s.output ∧ s'.sink = s.sink) ∧
    (s'.period = s.period ∧ s'.multiplier = s.multiplier ∧ s'.stage = s.stage ∧
      s'.nextTick = s.nextTick ∧ s'.now = s.now ∧ s'.gaps = s.gaps) ∧
    (s'.inputExhausted = s.inputExhausted ∧ s'.rtiRestoresIp = s.rtiRestoresIp)

theorem controlKept_raiseInterrupt (s : State) (code : Byte) : ControlKept s (s.raiseInterrupt code) := by
  have off : s.powerOn = false → (s.raiseInterrupt code).powerOn = false :=
    fun h => (raiseInterrupt_powerOn s code).2 (.inl h)
  obtain ⟨_, _, _, _, e⟩ := raiseInterrupt_frame s code
  rw [e] at off ⊢
  exact ⟨rfl, rfl, rfl, off, rfl, ⟨rfl, rfl⟩, ⟨rfl, rfl, rfl, rfl, rfl, rfl⟩, rfl, rfl⟩

/-- Settles O30: each shape that writes a part of the control state is the shape of the instructions listed for
that part; the others keep all of it. -/
theorem controlStateWrittenOnlyByItsInstructions :
    Obligations.ControlStateWrittenOnlyByItsInstructions := by
  intro i s s' h
  by_cases kept : ControlKept s s'
  · obtain ⟨t, handling, clock, power, input, output, governor, parameters⟩ := kept
    exact ⟨fun _ => t, fun _ _ => handling, fun _ _ => clock, power, fun _ => input, fun _ => output,
      governor, parameters⟩
  cases exec_effect i s s' h with
  | raise k _ => exact absurd (controlKept_raiseInterrupt s k) kept
  | strayReturn => exact absurd (controlKept_raiseInterrupt s 0#8) kept
  | writeT v eq => simp [eq]
  | handling v eq => rcases eq with rfl | rfl <;> simp
  | clock v eq => rcases eq with rfl | rfl <;> simp
  | input b rest eq => simp [eq]
  | output v k eq => simp [eq]
  | halt => simp
  | _ =>
    exact absurd ⟨rfl, rfl, rfl, id, rfl, ⟨rfl, rfl⟩, ⟨rfl, rfl, rfl, rfl, rfl, rfl⟩, rfl, rfl⟩ kept

end Sys2Proof.Machine
end

section
/-!
PROOFS. Rules over every step: the power bit and the invariant: `40_step_dispatch.md` rules R121, R122 and R138,
`10_state.md` rules R26 and R36.
-/
namespace Sys2Proof.Machine

/-! ## The power bit -/

/-- Settles O7: the first test of a step is the power bit. -/
theorem poweredOffTakesNoStep : Obligations.PoweredOffTakesNoStep := by
  intro s off
  simp [step, off]

/-- The instruction raises an interrupt whatever the state: a bad operand, INT, or an illegal opcode byte. -/
def AlwaysRaises (i : Instr) : Prop :=
  i.operandsLegal = false ∨ (∃ code, i = .int code) ∨ ∃ op, i = .illegal op

theorem Quiet.not_alwaysRaises {i : Instr} (h : Quiet i) : ¬ AlwaysRaises i := by
  obtain ⟨legal, noIllegal, noInt, -⟩ := h
  rintro (bad | ⟨code, rfl⟩ | ⟨op, rfl⟩)
  · rw [legal] at bad
    cases bad
  · exact noInt code rfl
  · exact noIllegal op rfl

theorem not_alwaysRaises_hlt : ¬ AlwaysRaises .hlt := by
  rintro (bad | ⟨_, e⟩ | ⟨_, e⟩)
  · cases bad
  · cases e
  · cases e

/-- At level 2 only an instruction that always raises raises: RTI raises at level 0. -/
theorem Raises.alwaysRaises_of_two {i : Instr} {s : State} {k : Byte} (h : Raises i s k)
    (two : s.level = .two) : AlwaysRaises i := by
  rcases h with ⟨-, bad | illegal | ⟨-, zero, -⟩⟩ | int
  · exact .inl bad
  · exact .inr (.inr illegal)
  · rw [two] at zero
    cases zero
  · exact .inr (.inl ⟨k, int⟩)

/-- HLT raises nothing. -/
theorem Raises.ne_hlt {i : Instr} {s : State} {k : Byte} (h : Raises i s k) : i ≠ .hlt := by
  rintro rfl
  rcases h with ⟨-, bad | ⟨_, e⟩ | ⟨e, -⟩⟩ | e
  · cases bad
  all_goals cases e

/-- An execution ends with the power off exactly if it began so, or is HLT, or is a triple fault. -/
theorem exec_powerOn {i : Instr} {s s' : State} (h : exec i s = .next s') :
    s'.powerOn = false ↔ s.powerOn = false ∨ i = .hlt ∨
      (s.interruptHandling = true ∧ s.level = .two ∧ AlwaysRaises i) := by
  have untouched {u : State} (kept : u.powerOn = s.powerOn) (notHlt : i ≠ .hlt)
      (silent : ¬ (s.level = .two ∧ AlwaysRaises i)) :
      u.powerOn = false ↔ s.powerOn = false ∨ i = .hlt ∨
        (s.interruptHandling = true ∧ s.level = .two ∧ AlwaysRaises i) := by
    rw [kept]
    tauto
  cases exec_effect i s s' h with
  | raise k r =>
    have notHlt := r.ne_hlt
    have always := r.alwaysRaises_of_two
    rw [raiseInterrupt_powerOn]
    tauto
  | strayReturn eq zero =>
    subst eq
    exact (raiseInterrupt_powerOn s 0#8).trans (by simp [zero])
  | halt eq => simp [eq]
  | regs b ip quiet plain | store m sp quiet plain =>
    obtain ⟨-, -, -, -, -, -, -, -, notHlt⟩ := plain
    exact untouched rfl notHlt fun both => quiet.not_alwaysRaises both.2
  | handling v eq | clock v eq =>
    rcases eq with rfl | rfl <;> exact untouched rfl nofun (by simp [AlwaysRaises, Instr.operandsLegal])
  | swap eq | leave lvl eq | writeT v eq | input b rest eq | output v k eq =>
    subst eq
    exact untouched rfl nofun (by simp [AlwaysRaises, Instr.operandsLegal])

theorem toExecute_interruptHandling (s : State) : s.toExecute.2.interruptHandling = s.interruptHandling := by
  obtain ⟨_, _, _, _, _, _, _, _, e⟩ := toExecute_frame s
  rw [e]

/-- Neither Tick nor the fetch moves the power bit. -/
theorem toExecute_powerOn (s : State) : s.toExecute.2.powerOn = s.clockPhase.powerOn := by
  unfold State.toExecute
  rw [fetchInstr_state]
  obtain ⟨_, _, _, _, e⟩ := tick_eq s.clockPhase
  rw [e]

/-- Before its execution a step turns the power off exactly if the clock interrupt is a triple fault. -/
theorem clockPhase_powerOn {s : State} (on : s.powerOn = true) :
    s.clockPhase.powerOn = false ↔
      s.interruptHandling = true ∧ s.level = .two ∧ s.clockInterrupt = true ∧ s.ic = 0x00 := by
  rcases clockPhase_cases s with ⟨pending, e⟩ | ⟨quiet, e⟩ <;> rw [e]
  · rw [raiseInterrupt_powerOn]
    simp [on, pending]
  · simp only [on]
    tauto

/-- Settles O26: the power goes off in phase 1, by `clockPhase_powerOn`, or in the execution, by `exec_powerOn`,
and phases 2, 3 and 5 do not move it. -/
theorem powerGoesOffOnlyByHaltOrTripleFault : Obligations.PowerGoesOffOnlyByHaltOrTripleFault := by
  intro s s' h
  obtain ⟨on, u, hexec, rfl⟩ := step_next h
  rw [State.countStep_powerOn, exec_powerOn hexec, toExecute_powerOn, clockPhase_powerOn on,
    toExecute_interruptHandling]
  exact or_left_comm

/-! ## The invariant -/

/-- A raise keeps the invariant: entry writes `S.A` and leaves F, rule R276. -/
theorem inv_raiseInterrupt {s : State} (inv : s.Inv) (code : Byte) : (s.raiseInterrupt code).Inv := by
  rcases raiseInterrupt_cases s code with ⟨_, e⟩ | ⟨_, _, e⟩ | ⟨_, _, e⟩ | ⟨_, _, e⟩ <;> rw [e] <;> exact inv

/-- Tick keeps the stage below MULTIPLIER, `70_reset_and_hazards.md` rule R332. -/
theorem inv_tick {s : State} (inv : s.Inv) : s.tick.Inv := by
  obtain ⟨memory, prim, shad, stage, period⟩ := inv
  have bound := tick_stage_lt s (Nat.zero_lt_of_lt stage)
  obtain ⟨_, _, _, _, e⟩ := tick_eq s
  rw [e] at bound ⊢
  exact ⟨memory, prim, shad, bound, period⟩

/-- Phases 1 to 3 keep the invariant. -/
theorem inv_toExecute {s : State} (inv : s.Inv) : s.toExecute.2.Inv := by
  unfold State.toExecute
  rw [fetchInstr_state]
  rcases clockPhase_cases s with ⟨_, e⟩ | ⟨_, e⟩ <;> rw [e]
  · exact inv_tick (inv_raiseInterrupt inv 0x01)
  · exact inv_tick inv

/-- Every shape keeps the invariant: a store keeps the canonical form, a write of the primary bank the reserved
bits, and SWP exchanges two banks that both have them zero. -/
theorem Effect.inv {i : Instr} {s s' : State} (e : Effect i s s') (inv : s.Inv) : s'.Inv := by
  cases e with
  | raise k h => exact inv_raiseInterrupt inv k
  | strayReturn h zero param => exact inv_raiseInterrupt inv 0#8
  | regs b ip quiet plain w | input b rest h w =>
    obtain ⟨memory, prim, rest⟩ := inv
    obtain ⟨-, -, -, reserved⟩ := w
    exact ⟨memory, prim.of_kept reserved, rest⟩
  | store m sp quiet plain bytes wf =>
    obtain ⟨memory, rest⟩ := inv
    exact ⟨wf memory, rest⟩
  | swap h =>
    obtain ⟨memory, prim, shad, rest⟩ := inv
    exact ⟨memory, shad, prim, rest⟩
  | _ => exact inv

/-- Settles O12: phases 1 to 3 keep the invariant, every shape of an execution does, and the count does not
touch it. -/
theorem stepKeepsTheInvariant : Obligations.StepKeepsTheInvariant := by
  intro s s' inv h
  obtain ⟨-, u, hexec, rfl⟩ := step_next h
  exact (exec_effect _ _ _ hexec).inv (inv_toExecute inv)

end Sys2Proof.Machine
end

section
/-!
PROOFS. What an execution reads: nothing of the governor and the clock, so that they are invisible, and of the
rest nothing but a port can block it: `70_reset_and_hazards.md` rule R334, `20_memory.md` rule R78.
-/
namespace Sys2Proof.Machine

/-! ## A raise and a return, with the governor and the clock left out -/

/-- A raise reads and writes nothing of the governor and the clock. -/
theorem raiseInterrupt_untimed (s : State) (code : Byte) :
    s.untimed.raiseInterrupt code = (s.raiseInterrupt code).untimed := by
  rcases raiseInterrupt_cases s code with ⟨masked, e⟩ | ⟨unmasked, level, e⟩ | ⟨unmasked, level, e⟩ |
    ⟨unmasked, level, e⟩ <;> rw [e]
  · exact raiseInterrupt_of_masked (s := s.untimed) masked code
  · exact raiseInterrupt_at_two (s := s.untimed) unmasked level code
  · exact raiseInterrupt_at_zero (s := s.untimed) unmasked level code
  · exact raiseInterrupt_at_one (s := s.untimed) unmasked level code

/-- A return from interrupt reads and writes nothing of the governor and the clock. -/
theorem returnFromInterrupt_untimed (s : State) :
    s.untimed.returnFromInterrupt = s.returnFromInterrupt.untimed := by
  have raised : s.untimed.badParameter = s.badParameter.untimed := raiseInterrupt_untimed s 0x00
  rcases returnFromInterrupt_cases s with ⟨level, e⟩ | ⟨level, e⟩ | ⟨level, stays, e⟩ | ⟨level, restores, e⟩ <;>
    rw [e]
  · simp only [State.returnFromInterrupt, show s.untimed.level = .two from level]
    rfl
  · simp only [State.returnFromInterrupt, show s.untimed.level = .one from level]
    rfl
  · simp [State.returnFromInterrupt, show s.untimed.level = .zero from level,
      show s.untimed.rtiRestoresIp = false from stays, raised]
  · simp only [State.returnFromInterrupt, show s.untimed.level = .zero from level,
      show s.untimed.rtiRestoresIp = true from restores, raised]
    rfl

/-! ## Every instruction: legal operands select registers -/

theorem half_of_class {k : Code} (h : isClassCode k = true) : ∃ d, g8 k = some d :=
  g8_of_le (by simpa [isClassCode] using h)

theorem reg_of_class {k : Code} (h : isClassCode k = true) : ∃ d, r16 k = some d :=
  r16_of_le (by simpa [isClassCode] using h)

theorem halves_of_classes {x y : Code} (h : (isClassCode x && isClassCode y) = true) :
    ∃ d r, g8 x = some d ∧ g8 y = some r := by
  obtain ⟨hx, hy⟩ := Bool.and_eq_true_iff.1 h
  obtain ⟨d, hd⟩ := half_of_class hx
  obtain ⟨r, hr⟩ := half_of_class hy
  exact ⟨d, r, hd, hr⟩

theorem regs_of_classes {x y : Code} (h : (isClassCode x && isClassCode y) = true) :
    ∃ d r, r16 x = some d ∧ r16 y = some r := by
  obtain ⟨hx, hy⟩ := Bool.and_eq_true_iff.1 h
  obtain ⟨d, hd⟩ := reg_of_class hx
  obtain ⟨r, hr⟩ := reg_of_class hy
  exact ⟨d, r, hd, hr⟩

/-- An instruction with legal operands, the two ports apart, answers a next state, and the same one with the
governor and the clock left out: its equation has the same form in both states. -/
theorem exec_untimed_of_legal {i : Instr} (legal : i.operandsLegal = true) (notIn : i ≠ .inp) (notOut : i ≠ .out)
    (s : State) : ∃ s', exec i s = .next s' ∧ exec i s.untimed = .next s'.untimed := by
  cases i with
  | nop | rsv54 | rsv55 | incc | decc | ldbBp d | ldbC | ldwBp d | ldwC | rdt | wrt | stbBp d | stbC | stwBp d
  | stwC | swp | jmp w | call w | calla | ret | ei | di | eci | dci | hlt => exact ⟨_, rfl, rfl⟩
  | jz w => exact ⟨_, exec_jz w s, exec_jz w _⟩
  | jc w => exact ⟨_, exec_jc w s, exec_jc w _⟩
  | jnz w => exact ⟨_, exec_jnz w s, exec_jnz w _⟩
  | jnc w => exact ⟨_, exec_jnc w s, exec_jnc w _⟩
  | int code => exact ⟨_, exec_int code s, congrArg _ (raiseInterrupt_untimed s code)⟩
  | illegal op => exact ⟨_, exec_illegal op s, congrArg _ (raiseInterrupt_untimed s 0x00)⟩
  | rti => exact ⟨_, exec_rti s, congrArg _ (returnFromInterrupt_untimed s)⟩
  | inp => exact absurd rfl notIn
  | out => exact absurd rfl notOut
  | add8 x y =>
    obtain ⟨d, r, hd, hr⟩ := halves_of_classes legal
    exact ⟨_, exec_add8_of_g8 hd hr s, exec_add8_of_g8 hd hr _⟩
  | sub8 x y =>
    obtain ⟨d, r, hd, hr⟩ := halves_of_classes legal
    exact ⟨_, exec_sub8_of_g8 hd hr s, exec_sub8_of_g8 hd hr _⟩
  | mov8 x y =>
    obtain ⟨d, r, hd, hr⟩ := halves_of_classes legal
    exact ⟨_, exec_mov8_of_g8 hd hr s, exec_mov8_of_g8 hd hr _⟩
  | and8 x y | or8 x y | xor8 x y =>
    obtain ⟨d, r, hd, hr⟩ := halves_of_classes legal
    exact ⟨_, congrArg Host.Outcome.next (logic8_of_g8 hd hr s _),
      congrArg Host.Outcome.next (logic8_of_g8 hd hr s.untimed _)⟩
  | add16 x y =>
    obtain ⟨d, r, hd, hr⟩ := regs_of_classes legal
    exact ⟨_, exec_add16_of_r16 hd hr s, exec_add16_of_r16 hd hr _⟩
  | sub16 x y =>
    obtain ⟨d, r, hd, hr⟩ := regs_of_classes legal
    exact ⟨_, exec_sub16_of_r16 hd hr s, exec_sub16_of_r16 hd hr _⟩
  | mov16 x y =>
    obtain ⟨d, r, hd, hr⟩ := regs_of_classes legal
    exact ⟨_, exec_mov16_of_r16 hd hr s, exec_mov16_of_r16 hd hr _⟩
  | neg x y =>
    simp only [Instr.operandsLegal, Bool.or_eq_true, Bool.and_eq_true, beq_iff_eq, decide_eq_true_eq] at legal
    rcases legal with ⟨mode, hx⟩ | ⟨mode, hx⟩
    · obtain ⟨d, hd⟩ := g8_of_le hx
      exact ⟨_, exec_neg_half mode hd s, exec_neg_half mode hd _⟩
    · obtain ⟨d, hd, -⟩ := g16_of_le hx
      exact ⟨_, exec_neg_reg mode hd s, exec_neg_reg mode hd _⟩
  | rol8 x y =>
    obtain ⟨hx, hy⟩ := Bool.and_eq_true_iff.1 legal
    obtain ⟨d, hd⟩ := half_of_class hx
    have hy := of_decide_eq_true hy
    exact ⟨_, exec_rol8_of_g8 hd hy s, exec_rol8_of_g8 hd hy _⟩
  | shf8 x y =>
    obtain ⟨d, hd⟩ := half_of_class legal
    exact ⟨_, exec_shf8_of_g8 hd y s, exec_shf8_of_g8 hd y _⟩
  | mul8 x y =>
    obtain ⟨hx, hy⟩ := Bool.and_eq_true_iff.1 legal
    obtain ⟨d, hd⟩ := half_of_class hx
    rcases Nat.lt_or_eq_of_le (of_decide_eq_true hy) with narrow | wide
    · obtain ⟨r, hr⟩ := g8_of_le (Nat.le_of_lt_succ narrow)
      exact ⟨_, exec_mul8_of_g8 hd hr s, exec_mul8_of_g8 hd hr _⟩
    · exact ⟨_, exec_mul8_wide hd wide s, exec_mul8_wide hd wide _⟩
  | movx tag =>
    simp only [Instr.operandsLegal, Bool.and_eq_true, decide_eq_true_eq] at legal
    have : tag.toNat = 1 ∨ tag.toNat = 2 ∨ tag.toNat = 3 := by omega
    rcases this with h | h | h
    · exact ⟨_, exec_movx_f h s, exec_movx_f h _⟩
    · exact ⟨_, exec_movx_ic h s, exec_movx_ic h _⟩
    · exact ⟨_, exec_movx_ip h s, exec_movx_ip h _⟩
  | mvi8 sel b =>
    obtain ⟨d, hd⟩ := half_of_class legal
    exact ⟨_, exec_mvi8_of_g8 hd b s, exec_mvi8_of_g8 hd b _⟩
  | mvi16 sel w =>
    obtain ⟨d, hd⟩ := reg_of_class legal
    exact ⟨_, exec_mvi16_of_r16 hd w s, exec_mvi16_of_r16 hd w _⟩
  | push8 sel =>
    obtain ⟨d, hd⟩ := half_of_class legal
    exact ⟨_, exec_push8_of_g8 hd s, exec_push8_of_g8 hd _⟩
  | push16 sel =>
    obtain ⟨d, hd⟩ := reg_of_class legal
    exact ⟨_, exec_push16_of_r16 hd s, exec_push16_of_r16 hd _⟩
  | pop8 sel =>
    obtain ⟨d, hd⟩ := half_of_class legal
    exact ⟨_, exec_pop8_of_g8 hd s, exec_pop8_of_g8 hd _⟩
  | pop16 sel =>
    obtain ⟨d, hd⟩ := reg_of_class legal
    exact ⟨_, exec_pop16_of_r16 hd s, exec_pop16_of_r16 hd _⟩
  | adi8 sel b =>
    obtain ⟨d, hd⟩ := half_of_class legal
    exact ⟨_, exec_adi8_of_g8 hd b s, exec_adi8_of_g8 hd b _⟩
  | adi16 sel w =>
    obtain ⟨d, hd⟩ := reg_of_class legal
    exact ⟨_, exec_adi16_of_r16 hd w s, exec_adi16_of_r16 hd w _⟩

/-- Every instruction but IN and OUT answers a next state, and the same one with the governor and the clock left
out. -/
theorem exec_next_untimed {i : Instr} (notIn : i ≠ .inp) (notOut : i ≠ .out) (s : State) :
    ∃ s', exec i s = .next s' ∧ exec i s.untimed = .next s'.untimed := by
  cases legal : i.operandsLegal with
  | true => exact exec_untimed_of_legal legal notIn notOut s
  | false =>
    exact ⟨_, badOperandsOnlyRaise i s legal,
      (badOperandsOnlyRaise i s.untimed legal).trans (congrArg _ (raiseInterrupt_untimed s 0x00))⟩

/-! ## Two states that agree but for the governor and the clock -/

/-- IN reads INPUT and its parameter only. -/
theorem sameUntimed_exec_inp {s u : State} (h : s.untimed = u.untimed) :
    SameUntimed (exec .inp s) (exec .inp u) := by
  have input : u.input = s.input := (congrArg State.input h).symm
  have parameter : u.inputExhausted = s.inputExhausted := (congrArg State.inputExhausted h).symm
  match hs : s.input with
  | b :: rest =>
    rw [exec_inp_of_input hs, exec_inp_of_input (input.trans hs)]
    exact congrArg (fun t : State => State.setHalf { t with input := rest } .aLow b) h
  | [] =>
    match hp : s.inputExhausted with
    | .value b =>
      rw [exec_inp_of_value hs hp, exec_inp_of_value (input.trans hs) (parameter.trans hp)]
      exact congrArg (fun t : State => t.setHalf .aLow b) h
    | .stuck =>
      rw [exec_inp_of_stuck hs hp, exec_inp_of_stuck (input.trans hs) (parameter.trans hp)]
      rfl

/-- OUT reads A-low and the endpoint only. -/
theorem sameUntimed_exec_out {s u : State} (h : s.untimed = u.untimed) :
    SameUntimed (exec .out s) (exec .out u) := by
  have sink : u.sink = s.sink := (congrArg State.sink h).symm
  match hs : s.sink with
  | .always =>
    rw [exec_out_of_always hs, exec_out_of_always (sink.trans hs)]
    exact congrArg (fun t : State => { t with output := t.output ++ [t.half .aLow] }) h
  | .accepts 0 =>
    rw [exec_out_of_blocked hs, exec_out_of_blocked (sink.trans hs)]
    rfl
  | .accepts (n + 1) =>
    rw [exec_out_of_accepts hs, exec_out_of_accepts (sink.trans hs)]
    exact congrArg (fun t : State => { t with output := t.output ++ [t.half .aLow], sink := .accepts n }) h

/-- No instruction reads the governor or the clock. -/
theorem sameUntimed_exec {s u : State} (i : Instr) (h : s.untimed = u.untimed) :
    SameUntimed (exec i s) (exec i u) := by
  by_cases isIn : i = .inp
  · exact isIn ▸ sameUntimed_exec_inp h
  by_cases isOut : i = .out
  · exact isOut ▸ sameUntimed_exec_out h
  obtain ⟨s', hs, hs'⟩ := exec_next_untimed isIn isOut s
  obtain ⟨u', hu, hu'⟩ := exec_next_untimed isIn isOut u
  rw [h, hu'] at hs'
  rw [hs, hu]
  injection hs' with same
  exact same.symm

/-- Phase 1 reads nothing of the governor and the clock. -/
theorem clockPhase_untimed (s : State) : s.untimed.clockPhase = s.clockPhase.untimed := by
  rw [clockPhase_eq_ite, clockPhase_eq_ite s, raiseInterrupt_untimed, apply_ite State.untimed]
  rfl

/-- A Tick writes nothing but the governor and the clock. -/
theorem tick_untimed (s : State) : s.tick.untimed = s.untimed := by
  obtain ⟨_, _, _, _, e⟩ := tick_eq s
  rw [e]
  rfl

/-- The fetch reads memory at `ip` and nothing of the governor and the clock. -/
theorem fetchInstr_untimed (s : State) :
    s.untimed.fetchInstr = (s.fetchInstr.1, s.fetchInstr.2.untimed) := by
  obtain ⟨_, hs⟩ := fetchInstr_instr s
  obtain ⟨_, hu⟩ := fetchInstr_instr s.untimed
  refine Prod.ext ?instr ?state
  case instr =>
    injection hu.symm.trans hs with pair
    exact (Prod.mk.inj pair).1
  case state =>
    rw [fetchInstr_state, fetchInstr_state]
    rfl

/-- Phases 1 to 3 with the governor and the clock left out: Tick drops out. -/
theorem toExecute_untimed (s : State) :
    s.untimed.clockPhase.fetchInstr = (s.toExecute.1, s.toExecute.2.untimed) := by
  rw [clockPhase_untimed, ← tick_untimed, fetchInstr_untimed]
  rfl

/-- Settles O18: phases 1 to 3 fetch the same instruction into states that agree but for the governor and the
clock, by `toExecute_untimed`, and no instruction tells those states apart, by `sameUntimed_exec`. -/
theorem governorIsInvisible : Obligations.GovernorIsInvisible := by
  intro s u h
  have power : u.powerOn = s.powerOn := (congrArg State.powerOn h).symm
  have fetched : (s.toExecute.1, s.toExecute.2.untimed) = (u.toExecute.1, u.toExecute.2.untimed) := by
    rw [← toExecute_untimed, ← toExecute_untimed, h]
  injection fetched with instr state
  have executed := sameUntimed_exec s.toExecute.1 state
  unfold step
  rw [power, ← instr]
  cases s.powerOn with
  | false => rfl
  | true =>
    revert executed
    cases exec s.toExecute.1 s.toExecute.2 <;> cases exec s.toExecute.1 u.toExecute.2 <;> intro executed
    case next.next => exact congrArg State.countStep executed
    all_goals exact executed

/-! ## When a step completes -/

theorem step_of_exec_next {s u : State} (on : s.powerOn = true)
    (h : exec s.toExecute.1 s.toExecute.2 = .next u) : step s = .next u.countStep := by
  simp only [step, if_pos on, h]

theorem step_of_exec_fault {s : State} {r : Fault} (on : s.powerOn = true)
    (h : exec s.toExecute.1 s.toExecute.2 = .fault r) : step s = .fault r := by
  simp only [step, if_pos on, h]

/-- Phases 1 to 3 leave the ports as they are. -/
theorem toExecute_ports (s : State) : s.toExecute.2.input = s.input ∧
    s.toExecute.2.inputExhausted = s.inputExhausted ∧ s.toExecute.2.sink = s.sink := by
  obtain ⟨_, _, _, _, _, _, _, _, e⟩ := toExecute_frame s
  rw [e]
  exact ⟨rfl, rfl, rfl⟩

theorem exec_inp_of_not_canInput {s : State} (h : ¬ s.CanInput) : exec .inp s = .fault .inputBlocked := by
  obtain ⟨ended, stuck⟩ := not_or.1 h
  exact exec_inp_of_stuck (not_not.1 ended) (not_not.1 stuck)

theorem exec_inp_of_canInput {s : State} (h : s.CanInput) : ∃ s', exec .inp s = .next s' := by
  match hi : s.input with
  | b :: rest => exact ⟨_, exec_inp_of_input hi⟩
  | [] =>
    match hp : s.inputExhausted with
    | .value b => exact ⟨_, exec_inp_of_value hi hp⟩
    | .stuck => exact absurd h (by simp [State.CanInput, hi, hp])

theorem exec_out_of_canOutput {s : State} (h : s.CanOutput) : ∃ s', exec .out s = .next s' := by
  match hs : s.sink with
  | .always => exact ⟨_, exec_out_of_always hs⟩
  | .accepts 0 => exact absurd hs h
  | .accepts (n + 1) => exact ⟨_, exec_out_of_accepts hs⟩

/-- Settles O9: phases 1 to 3 do not touch the ports, and an execution other than IN and OUT always answers a
next state, by `exec_next_untimed`. -/
theorem stepCompletesUnlessAPortBlocks : Obligations.StepCompletesUnlessAPortBlocks := by
  intro s on
  obtain ⟨input, parameter, sink⟩ := toExecute_ports s
  have canInput : s.toExecute.2.CanInput ↔ s.CanInput := by unfold State.CanInput; rw [input, parameter]
  have canOutput : s.toExecute.2.CanOutput ↔ s.CanOutput := by unfold State.CanOutput; rw [sink]
  refine ⟨fun ⟨isIn, never⟩ => step_of_exec_fault on ?_, fun ⟨isOut, never⟩ => step_of_exec_fault on ?_,
    fun noBlockedIn noBlockedOut => ?_⟩
  · rw [isIn]
    exact exec_inp_of_not_canInput (canInput.not.2 never)
  · rw [isOut]
    exact exec_out_of_blocked (sink.trans (not_not.1 never))
  suffices completes : ∃ u, exec s.toExecute.1 s.toExecute.2 = .next u by
    obtain ⟨u, hexec⟩ := completes
    exact ⟨_, step_of_exec_next on hexec⟩
  by_cases isIn : s.toExecute.1 = .inp
  · rw [isIn]
    exact exec_inp_of_canInput (canInput.2 (not_not.1 fun never => noBlockedIn ⟨isIn, never⟩))
  by_cases isOut : s.toExecute.1 = .out
  · rw [isOut]
    exact exec_out_of_canOutput (canOutput.2 (not_not.1 fun never => noBlockedOut ⟨isOut, never⟩))
  obtain ⟨u, hexec, -⟩ := exec_next_untimed isIn isOut s.toExecute.2
  exact ⟨u, hexec⟩

end Sys2Proof.Machine
end

section
/-!
PROOFS. Construction and Tick: `10_state.md` rule R40, `70_reset_and_hazards.md` rules R310 to R314 and R330 to
R335.
-/
namespace Sys2Proof.Machine

/-! ## The governor's constants -/

theorem multiplier_pos (r : ClockRate) : 0 < r.multiplier :=
  Nat.lt_of_lt_of_le Nat.one_pos (le_max_left ..)

theorem period_ge (r : ClockRate) : 20000 ≤ r.period := le_max_left ..

/-! ## The constructed state -/

/-- The machine of a launch that construction accepts, the table of rule R40. -/
def State.launched (l : Launch) : State :=
  { State.reset with
    mem := Memory.load [] 0 l.image
    period := l.rate.period
    multiplier := l.rate.multiplier
    nextTick := l.time
    now := l.time
    gaps := l.gaps
    input := l.input
    sink := l.sink
    inputExhausted := l.inputExhausted
    rtiRestoresIp := l.rtiRestoresIp }

/-- Construction answers the launched machine exactly for a valid rate and an image that fits, rules R313 and
R314. -/
theorem construct_eq_ok_iff (l : Launch) (s : State) :
    State.construct l = .ok s ↔ l.rate.valid = true ∧ l.image.length ≤ memorySize ∧ s = State.launched l := by
  by_cases valid : l.rate.valid = true
  case neg => simp [State.construct, valid]
  by_cases fits : l.image.length ≤ memorySize
  case neg => simp [State.construct, valid, fits, Nat.lt_of_not_le fits]
  simp [State.construct, valid, fits, Nat.not_lt.2 fits, State.launched, eq_comm]

/-- A byte of the image stands at its own address, rule R314. -/
theorem readByte_launched (l : Launch) (a : Word) (h : a.toNat < l.image.length) :
    l.image[a.toNat]? = some ((State.launched l).readByte a) := by
  have loaded := Memory.read_load l.image [] 0 a.toNat
  rw [Nat.zero_add, List.getD_eq_getElem _ _ h] at loaded
  rw [List.getElem?_eq_getElem h]
  exact congrArg some loaded.symm

theorem reservedZero_zero : Bank.zero.ReservedZero := by
  simp [Bank.ReservedZero, Bank.zero]

/-- Settles O10: memory is empty, both F registers are zero, and the constants have their lower bounds. -/
theorem resetMeetsTheInvariant : Obligations.ResetMeetsTheInvariant :=
  ⟨rfl, reservedZero_zero, reservedZero_zero, multiplier_pos resetRate, period_ge resetRate⟩

/-- Settles O11: a launch that is accepted has an image that fits, so that loading it keeps the canonical form;
the rest is as at reset, with the constants of its own rate. -/
theorem constructionMeetsTheInvariant : Obligations.ConstructionMeetsTheInvariant := by
  intro l s h
  obtain ⟨-, fits, rfl⟩ := (construct_eq_ok_iff l s).1 h
  obtain ⟨-, prim, shad, -, -⟩ := resetMeetsTheInvariant
  exact ⟨Memory.wf_load l.image [] 0 rfl (by omega), prim, shad, multiplier_pos l.rate, period_ge l.rate⟩

/-- Settles O13: the fields of the launched machine, and its image byte by byte. -/
theorem constructionState : Obligations.ConstructionState := fun l valid fits =>
  ⟨State.launched l, (construct_eq_ok_iff l _).2 ⟨valid, fits, rfl⟩, ⟨rfl, rfl, rfl, rfl, rfl⟩,
    ⟨rfl, rfl, rfl, rfl, rfl⟩, rfl, rfl, rfl, rfl, rfl, rfl, rfl, readByte_launched l, rfl, rfl, rfl, rfl, rfl, rfl⟩

/-! ## Tick -/

/-- Inside a cycle Tick reads the clock and moves the stage on, rule R332. -/
theorem tick_of_lt {s : State} (h : s.stage + 1 < s.multiplier) :
    s.tick = { s with stage := s.stage + 1, now := s.now + s.gaps.headD 0, gaps := s.gaps.tail } :=
  if_pos h

/-- At the end of a cycle Tick waits for the deadline and moves it on, rule R332. -/
theorem tick_of_le {s : State} (h : s.multiplier ≤ s.stage + 1) :
    s.tick = { s with
      stage := 0, nextTick := s.nextTick + s.period,
      now := max (s.now + s.gaps.headD 0) s.nextTick, gaps := s.gaps.tail } :=
  if_neg (Nat.not_lt.2 h)

/-- Settles O16: the wait ends at the later of the clock and the deadline. -/
theorem tickProcedure : Obligations.TickProcedure := by
  rintro s _ rfl
  exact ⟨tick_of_lt, fun h =>
    ⟨_, tick_of_le h, le_max_left .., le_max_right .., fun early => max_eq_right early.le, max_eq_left⟩⟩

/-- Two Ticks from stage 0 with MULTIPLIER 2, with no time passing but by waiting: one cycle. -/
theorem tick_tick {s : State} (two : s.multiplier = 2) (start : s.stage = 0) (noGaps : s.gaps = []) :
    s.tick.tick = { s with now := max s.now s.nextTick, nextTick := s.nextTick + s.period } := by
  have advanced : s.tick = { s with stage := 1 } := by
    rw [tick_of_lt (by omega)]
    simp [start, noGaps]
  rw [advanced, tick_of_le (by simp [two])]
  simp [start, noGaps]

/-- Settles O17: at rate 100 a cycle is two Ticks and 20 ms; the first deadline is the time of construction, so
only the second cycle waits. -/
theorem fourTicksAtRate100 : Obligations.FourTicksAtRate100 := by
  intro l s rate noGaps h
  obtain ⟨-, -, rfl⟩ := (construct_eq_ok_iff l s).1 h
  have two : (State.launched l).multiplier = 2 := by simp [State.launched, rate, ClockRate.multiplier]
  have period : (State.launched l).period = 20000 := by simp [State.launched, rate, ClockRate.period]
  rw [tick_tick two rfl noGaps, tick_tick, period]
  · simp [State.launched, State.reset, Nat.add_assoc]
  · exact two
  · rfl
  · exact noGaps

end Sys2Proof.Machine
end
